-- ==== Sys2Proof/Word.lean ====
section
/-! DEFINITION. The two word types of the block: rules R4 and R9 of 00_scope.md. -/

namespace Sys2Proof

/-- `u8` of R9: a register, a memory cell or an ALU operand. -/
abbrev Byte := BitVec 8

/-- `u16` of R9: PC and every address. -/
abbrev Addr := BitVec 16

end Sys2Proof
end

