-- ==== Sys2Proof/Config.lean ====
section
/-! DEFINITION. The parameters of 00_scope.md R5 to R8. The spec leaves no result of an executed
instruction undefined, so there is no free value. -/

namespace Sys2Proof

/-- The three named parameters. R6: a model takes them as an argument, so that claims can be checked
under every reading of the source. -/
structure Config where
  /-- `BRK_HALTS` (R6): the step that executes BRK reports halt. -/
  brkHalts : Bool
  /-- `BRK_LOADS_VECTOR` (R7): BRK loads PC from 0xFFFE/0xFFFF after its pushes. -/
  brkLoadsVector : Bool
  /-- `HOST_STOP_AT_BRK` (R8): the host ends a run before stepping an opcode byte 0x00. -/
  hostStopAtBrk : Bool
  deriving DecidableEq, Repr

/-- The spec's values: false, false, true (decisions D2, D3, D15). DESIGN CHOICE of the spec, log
entry 2, unsafe. -/
def Config.specValues : Config :=
  { brkHalts := false, brkLoadsVector := false, hostStopAtBrk := true }

/-- `LOAD_ADDRESS` (R5): PC at reset, and where `load_program(bytes)` loads. -/
def Config.loadAddress : Addr := 0x0600#16

end Sys2Proof
end

