-- ==== Sys2Proof/Syntax.lean ====
section
/-! DEFINITION. The instructions as syntax: the 13 addressing modes (30_encoding.md R76 to R88), the 56
operations (00_scope.md R1, R2) and the null entries (30_encoding.md R74). -/

namespace Sys2Proof

/-- The 13 addressing modes of R76 to R88 (conflict C1: thirteen, not twelve). -/
inductive Mode where
  | implicit | accumulator | immediate | absolute | absoluteX | absoluteY | indirect
  | indirectX | indirectY | relative | zeropage | zeropageX | zeropageY
  deriving DecidableEq, Repr

/-- Bytes of an instruction of this mode, opcode included (R71). -/
def Mode.length : Mode → Nat
  | .implicit => 1
  | .accumulator => 1
  | .immediate => 2
  | .absolute => 3
  | .absoluteX => 3
  | .absoluteY => 3
  | .indirect => 3
  | .indirectX => 2
  | .indirectY => 2
  | .relative => 2
  | .zeropage => 2
  | .zeropageX => 2
  | .zeropageY => 2

/-- A mode with the operand the instruction's bytes give it (R71): an immediate value, a zero-page
address, a branch offset, or a 16-bit address. -/
inductive Operand where
  | implicit
  | accumulator
  | immediate (v : Byte)
  | absolute (a : Addr)
  | absoluteX (a : Addr)
  | absoluteY (a : Addr)
  | indirect (a : Addr)
  | indirectX (zp : Byte)
  | indirectY (zp : Byte)
  | relative (off : Byte)
  | zeropage (zp : Byte)
  | zeropageX (zp : Byte)
  | zeropageY (zp : Byte)
  deriving DecidableEq, Repr

/-- The mode of an operand. -/
def Operand.mode : Operand → Mode
  | .implicit => .implicit
  | .accumulator => .accumulator
  | .immediate _ => .immediate
  | .absolute _ => .absolute
  | .absoluteX _ => .absoluteX
  | .absoluteY _ => .absoluteY
  | .indirect _ => .indirect
  | .indirectX _ => .indirectX
  | .indirectY _ => .indirectY
  | .relative _ => .relative
  | .zeropage _ => .zeropage
  | .zeropageX _ => .zeropageX
  | .zeropageY _ => .zeropageY

/-- The 56 operations of R1, in the order of files 41 to 49. -/
inductive Operation where
  | lda | ldx | ldy | sta | stx | sty | tax | tay
  | tsx | txa | tya | txs | adc | sbc | cmp | cpx
  | cpy | and | ora | eor | bit | asl | lsr | rol
  | ror | inc | dec | inx | iny | dex | dey | bcc
  | bcs | bne | beq | bpl | bmi | bvc | bvs | jmp
  | jsr | rts | rti | pha | php | pla | plp | clc
  | sec | cld | sed | cli | sei | clv | brk | nop
  deriving DecidableEq, Repr

/-- The instructions. One constructor per operation of the opcode table, its rows told apart by the
operand's mode, and one for the table's null rows (log entry 5). -/
inductive Instr where
  -- Loads and stores, 41_load_store.md.
  | lda (m : Operand)
  | ldx (m : Operand)
  | ldy (m : Operand)
  | sta (m : Operand)
  | stx (m : Operand)
  | sty (m : Operand)
  -- Transfers, 42_transfers.md.
  | tax
  | tay
  | tsx
  | txa
  | tya
  | txs
  -- Arithmetic and compares, 43_arithmetic_compare.md.
  | adc (m : Operand)
  | sbc (m : Operand)
  | cmp (m : Operand)
  | cpx (m : Operand)
  | cpy (m : Operand)
  -- Logic, 44_logical.md.
  | and (m : Operand)
  | ora (m : Operand)
  | eor (m : Operand)
  | bit (m : Operand)
  -- Shifts and rotates, 45_shift_rotate.md.
  | asl (m : Operand)
  | lsr (m : Operand)
  | rol (m : Operand)
  | ror (m : Operand)
  -- Increments and decrements, 46_inc_dec.md.
  | inc (m : Operand)
  | dec (m : Operand)
  | inx
  | iny
  | dex
  | dey
  -- Branches, 47_branches.md.
  | bcc (m : Operand)
  | bcs (m : Operand)
  | bne (m : Operand)
  | beq (m : Operand)
  | bpl (m : Operand)
  | bmi (m : Operand)
  | bvc (m : Operand)
  | bvs (m : Operand)
  -- Jumps, calls and returns, 48_jumps_calls.md.
  | jmp (m : Operand)
  | jsr (m : Operand)
  | rts
  | rti
  -- Stack, flags and system, 49_stack_flags_system.md.
  | pha
  | php
  | pla
  | plp
  | clc
  | sec
  | cld
  | sed
  | cli
  | sei
  | clv
  | brk
  | nop
  -- The 105 undocumented opcodes, 30_encoding.md R74.
  | null (op : Byte)
  deriving DecidableEq, Repr

/-- An instruction taken apart: a null entry's opcode byte, or an operation with its operand. -/
def Instr.parts : Instr → Byte ⊕ (Operation × Operand)
  | .lda m => .inr (.lda, m)
  | .ldx m => .inr (.ldx, m)
  | .ldy m => .inr (.ldy, m)
  | .sta m => .inr (.sta, m)
  | .stx m => .inr (.stx, m)
  | .sty m => .inr (.sty, m)
  | .tax => .inr (.tax, .implicit)
  | .tay => .inr (.tay, .implicit)
  | .tsx => .inr (.tsx, .implicit)
  | .txa => .inr (.txa, .implicit)
  | .tya => .inr (.tya, .implicit)
  | .txs => .inr (.txs, .implicit)
  | .adc m => .inr (.adc, m)
  | .sbc m => .inr (.sbc, m)
  | .cmp m => .inr (.cmp, m)
  | .cpx m => .inr (.cpx, m)
  | .cpy m => .inr (.cpy, m)
  | .and m => .inr (.and, m)
  | .ora m => .inr (.ora, m)
  | .eor m => .inr (.eor, m)
  | .bit m => .inr (.bit, m)
  | .asl m => .inr (.asl, m)
  | .lsr m => .inr (.lsr, m)
  | .rol m => .inr (.rol, m)
  | .ror m => .inr (.ror, m)
  | .inc m => .inr (.inc, m)
  | .dec m => .inr (.dec, m)
  | .inx => .inr (.inx, .implicit)
  | .iny => .inr (.iny, .implicit)
  | .dex => .inr (.dex, .implicit)
  | .dey => .inr (.dey, .implicit)
  | .bcc m => .inr (.bcc, m)
  | .bcs m => .inr (.bcs, m)
  | .bne m => .inr (.bne, m)
  | .beq m => .inr (.beq, m)
  | .bpl m => .inr (.bpl, m)
  | .bmi m => .inr (.bmi, m)
  | .bvc m => .inr (.bvc, m)
  | .bvs m => .inr (.bvs, m)
  | .jmp m => .inr (.jmp, m)
  | .jsr m => .inr (.jsr, m)
  | .rts => .inr (.rts, .implicit)
  | .rti => .inr (.rti, .implicit)
  | .pha => .inr (.pha, .implicit)
  | .php => .inr (.php, .implicit)
  | .pla => .inr (.pla, .implicit)
  | .plp => .inr (.plp, .implicit)
  | .clc => .inr (.clc, .implicit)
  | .sec => .inr (.sec, .implicit)
  | .cld => .inr (.cld, .implicit)
  | .sed => .inr (.sed, .implicit)
  | .cli => .inr (.cli, .implicit)
  | .sei => .inr (.sei, .implicit)
  | .clv => .inr (.clv, .implicit)
  | .brk => .inr (.brk, .implicit)
  | .nop => .inr (.nop, .implicit)
  | .null op => .inl op

/-- The instruction of an operation and its operand; an operation that has the Implicit mode only
takes no operand. -/
def Operation.withOperand : Operation → Operand → Instr
  | .lda, m => .lda m
  | .ldx, m => .ldx m
  | .ldy, m => .ldy m
  | .sta, m => .sta m
  | .stx, m => .stx m
  | .sty, m => .sty m
  | .tax, _ => .tax
  | .tay, _ => .tay
  | .tsx, _ => .tsx
  | .txa, _ => .txa
  | .tya, _ => .tya
  | .txs, _ => .txs
  | .adc, m => .adc m
  | .sbc, m => .sbc m
  | .cmp, m => .cmp m
  | .cpx, m => .cpx m
  | .cpy, m => .cpy m
  | .and, m => .and m
  | .ora, m => .ora m
  | .eor, m => .eor m
  | .bit, m => .bit m
  | .asl, m => .asl m
  | .lsr, m => .lsr m
  | .rol, m => .rol m
  | .ror, m => .ror m
  | .inc, m => .inc m
  | .dec, m => .dec m
  | .inx, _ => .inx
  | .iny, _ => .iny
  | .dex, _ => .dex
  | .dey, _ => .dey
  | .bcc, m => .bcc m
  | .bcs, m => .bcs m
  | .bne, m => .bne m
  | .beq, m => .beq m
  | .bpl, m => .bpl m
  | .bmi, m => .bmi m
  | .bvc, m => .bvc m
  | .bvs, m => .bvs m
  | .jmp, m => .jmp m
  | .jsr, m => .jsr m
  | .rts, _ => .rts
  | .rti, _ => .rti
  | .pha, _ => .pha
  | .php, _ => .php
  | .pla, _ => .pla
  | .plp, _ => .plp
  | .clc, _ => .clc
  | .sec, _ => .sec
  | .cld, _ => .cld
  | .sed, _ => .sed
  | .cli, _ => .cli
  | .sei, _ => .sei
  | .clv, _ => .clv
  | .brk, _ => .brk
  | .nop, _ => .nop

/-- The operand of an instruction; a null entry has none. -/
def Instr.operand (i : Instr) : Operand :=
  match i.parts with
  | .inl _ => .implicit
  | .inr (_, m) => m

/-- Length in bytes: R71 by the mode; a null entry consumes exactly its opcode byte (R74). -/
def Instr.length (i : Instr) : Nat := i.operand.mode.length

end Sys2Proof
end

