-- ==== Sys2Proof/WellFormed.lean ====
section
/-! DEFINITION. Which terms of Instr are instructions of the block: the modes that the Encodings entry of
each rule of files 41 to 49 lists, and the null opcodes that 30_encoding.md R74 lists. -/

namespace Sys2Proof

/-- The modes an operation has: the Encodings entry of its rule, in that entry's order. -/
def Operation.legalModes : Operation → List Mode
  | .lda => [.immediate, .zeropage, .zeropageX, .absolute, .absoluteX, .absoluteY, .indirectX, .indirectY]
  | .ldx => [.immediate, .zeropage, .zeropageY, .absolute, .absoluteY]
  | .ldy => [.immediate, .zeropage, .zeropageX, .absolute, .absoluteX]
  | .sta => [.zeropage, .zeropageX, .absolute, .absoluteX, .absoluteY, .indirectX, .indirectY]
  | .stx => [.zeropage, .zeropageY, .absolute]
  | .sty => [.zeropage, .zeropageX, .absolute]
  | .tax => [.implicit]
  | .tay => [.implicit]
  | .tsx => [.implicit]
  | .txa => [.implicit]
  | .tya => [.implicit]
  | .txs => [.implicit]
  | .adc => [.immediate, .zeropage, .zeropageX, .absolute, .absoluteX, .absoluteY, .indirectX, .indirectY]
  | .sbc => [.immediate, .zeropage, .zeropageX, .absolute, .absoluteX, .absoluteY, .indirectX, .indirectY]
  | .cmp => [.immediate, .zeropage, .zeropageX, .absolute, .absoluteX, .absoluteY, .indirectX, .indirectY]
  | .cpx => [.immediate, .zeropage, .absolute]
  | .cpy => [.immediate, .zeropage, .absolute]
  | .and => [.immediate, .zeropage, .zeropageX, .absolute, .absoluteX, .absoluteY, .indirectX, .indirectY]
  | .ora => [.immediate, .zeropage, .zeropageX, .absolute, .absoluteX, .absoluteY, .indirectX, .indirectY]
  | .eor => [.immediate, .zeropage, .zeropageX, .absolute, .absoluteX, .absoluteY, .indirectX, .indirectY]
  | .bit => [.zeropage, .absolute]
  | .asl => [.accumulator, .zeropage, .zeropageX, .absolute, .absoluteX]
  | .lsr => [.accumulator, .zeropage, .zeropageX, .absolute, .absoluteX]
  | .rol => [.accumulator, .zeropage, .zeropageX, .absolute, .absoluteX]
  | .ror => [.accumulator, .zeropage, .zeropageX, .absolute, .absoluteX]
  | .inc => [.zeropage, .zeropageX, .absolute, .absoluteX]
  | .dec => [.zeropage, .zeropageX, .absolute, .absoluteX]
  | .inx => [.implicit]
  | .iny => [.implicit]
  | .dex => [.implicit]
  | .dey => [.implicit]
  | .bcc => [.relative]
  | .bcs => [.relative]
  | .bne => [.relative]
  | .beq => [.relative]
  | .bpl => [.relative]
  | .bmi => [.relative]
  | .bvc => [.relative]
  | .bvs => [.relative]
  | .jmp => [.absolute, .indirect]
  | .jsr => [.absolute]
  | .rts => [.implicit]
  | .rti => [.implicit]
  | .pha => [.implicit]
  | .php => [.implicit]
  | .pla => [.implicit]
  | .plp => [.implicit]
  | .clc => [.implicit]
  | .sec => [.implicit]
  | .cld => [.implicit]
  | .sed => [.implicit]
  | .cli => [.implicit]
  | .sei => [.implicit]
  | .clv => [.implicit]
  | .brk => [.implicit]
  | .nop => [.implicit]

/-- The 105 undocumented opcode bytes, as R74 lists them. -/
def nullOpcodes : List Nat :=
  [0x02, 0x03, 0x04, 0x07, 0x0B, 0x0C, 0x0F, 0x12, 0x13, 0x14, 0x17, 0x1A, 0x1B, 0x1C, 0x1F] ++
  [0x22, 0x23, 0x27, 0x2B, 0x2F, 0x32, 0x33, 0x34, 0x37, 0x3A, 0x3B, 0x3C, 0x3F, 0x42, 0x43] ++
  [0x44, 0x47, 0x4B, 0x4F, 0x52, 0x53, 0x54, 0x57, 0x5A, 0x5B, 0x5C, 0x5F, 0x62, 0x63, 0x64] ++
  [0x67, 0x6B, 0x6F, 0x72, 0x73, 0x74, 0x77, 0x7A, 0x7B, 0x7C, 0x7F, 0x80, 0x82, 0x83, 0x87] ++
  [0x89, 0x8B, 0x8F, 0x92, 0x93, 0x97, 0x9B, 0x9C, 0x9E, 0x9F, 0xA3, 0xA7, 0xAB, 0xAF, 0xB2] ++
  [0xB3, 0xB7, 0xBB, 0xBF, 0xC2, 0xC3, 0xC7, 0xCB, 0xCF, 0xD2, 0xD3, 0xD4, 0xD7, 0xDA, 0xDB] ++
  [0xDC, 0xDF, 0xE2, 0xE3, 0xE7, 0xEB, 0xEF, 0xF2, 0xF3, 0xF4, 0xF7, 0xFA, 0xFB, 0xFC, 0xFF]

/-- Well-formed: the operation has the operand's mode, or the byte is an undocumented opcode. -/
def Instr.wf (i : Instr) : Bool :=
  match i.parts with
  | .inl op => nullOpcodes.contains op.toNat
  | .inr (o, m) => o.legalModes.contains m.mode

end Sys2Proof
end

