-- ==== Sys2Proof/Decode.lean ====
section
/-! DEFINITION. The decoder, from the grid of 30_encoding.md R73, and after it the encoder, from the
Encodings entries of the rules of files 41 to 49: two transcriptions of two places of the spec. The 136
entries that R73 takes from the standard map are the spec's own general knowledge (log entry 4). -/

namespace Sys2Proof

/-- A decode-table entry (R72): an operation with its mode, or null. -/
abbrev Entry := Option (Operation × Mode)

/-- Row 0x of the grid of R73. -/
def opcodeRow0 : List Entry :=
  [some (.brk, .implicit), some (.ora, .indirectX), none, none,
   none, some (.ora, .zeropage), some (.asl, .zeropage), none,
   some (.php, .implicit), some (.ora, .immediate), some (.asl, .accumulator), none,
   none, some (.ora, .absolute), some (.asl, .absolute), none]

/-- Row 1x of the grid of R73. -/
def opcodeRow1 : List Entry :=
  [some (.bpl, .relative), some (.ora, .indirectY), none, none,
   none, some (.ora, .zeropageX), some (.asl, .zeropageX), none,
   some (.clc, .implicit), some (.ora, .absoluteY), none, none,
   none, some (.ora, .absoluteX), some (.asl, .absoluteX), none]

/-- Row 2x of the grid of R73. -/
def opcodeRow2 : List Entry :=
  [some (.jsr, .absolute), some (.and, .indirectX), none, none,
   some (.bit, .zeropage), some (.and, .zeropage), some (.rol, .zeropage), none,
   some (.plp, .implicit), some (.and, .immediate), some (.rol, .accumulator), none,
   some (.bit, .absolute), some (.and, .absolute), some (.rol, .absolute), none]

/-- Row 3x of the grid of R73. -/
def opcodeRow3 : List Entry :=
  [some (.bmi, .relative), some (.and, .indirectY), none, none,
   none, some (.and, .zeropageX), some (.rol, .zeropageX), none,
   some (.sec, .implicit), some (.and, .absoluteY), none, none,
   none, some (.and, .absoluteX), some (.rol, .absoluteX), none]

/-- Row 4x of the grid of R73. -/
def opcodeRow4 : List Entry :=
  [some (.rti, .implicit), some (.eor, .indirectX), none, none,
   none, some (.eor, .zeropage), some (.lsr, .zeropage), none,
   some (.pha, .implicit), some (.eor, .immediate), some (.lsr, .accumulator), none,
   some (.jmp, .absolute), some (.eor, .absolute), some (.lsr, .absolute), none]

/-- Row 5x of the grid of R73. -/
def opcodeRow5 : List Entry :=
  [some (.bvc, .relative), some (.eor, .indirectY), none, none,
   none, some (.eor, .zeropageX), some (.lsr, .zeropageX), none,
   some (.cli, .implicit), some (.eor, .absoluteY), none, none,
   none, some (.eor, .absoluteX), some (.lsr, .absoluteX), none]

/-- Row 6x of the grid of R73. -/
def opcodeRow6 : List Entry :=
  [some (.rts, .implicit), some (.adc, .indirectX), none, none,
   none, some (.adc, .zeropage), some (.ror, .zeropage), none,
   some (.pla, .implicit), some (.adc, .immediate), some (.ror, .accumulator), none,
   some (.jmp, .indirect), some (.adc, .absolute), some (.ror, .absolute), none]

/-- Row 7x of the grid of R73. -/
def opcodeRow7 : List Entry :=
  [some (.bvs, .relative), some (.adc, .indirectY), none, none,
   none, some (.adc, .zeropageX), some (.ror, .zeropageX), none,
   some (.sei, .implicit), some (.adc, .absoluteY), none, none,
   none, some (.adc, .absoluteX), some (.ror, .absoluteX), none]

/-- Row 8x of the grid of R73. -/
def opcodeRow8 : List Entry :=
  [none, some (.sta, .indirectX), none, none,
   some (.sty, .zeropage), some (.sta, .zeropage), some (.stx, .zeropage), none,
   some (.dey, .implicit), none, some (.txa, .implicit), none,
   some (.sty, .absolute), some (.sta, .absolute), some (.stx, .absolute), none]

/-- Row 9x of the grid of R73. -/
def opcodeRow9 : List Entry :=
  [some (.bcc, .relative), some (.sta, .indirectY), none, none,
   some (.sty, .zeropageX), some (.sta, .zeropageX), some (.stx, .zeropageY), none,
   some (.tya, .implicit), some (.sta, .absoluteY), some (.txs, .implicit), none,
   none, some (.sta, .absoluteX), none, none]

/-- Row Ax of the grid of R73. -/
def opcodeRowA : List Entry :=
  [some (.ldy, .immediate), some (.lda, .indirectX), some (.ldx, .immediate), none,
   some (.ldy, .zeropage), some (.lda, .zeropage), some (.ldx, .zeropage), none,
   some (.tay, .implicit), some (.lda, .immediate), some (.tax, .implicit), none,
   some (.ldy, .absolute), some (.lda, .absolute), some (.ldx, .absolute), none]

/-- Row Bx of the grid of R73. -/
def opcodeRowB : List Entry :=
  [some (.bcs, .relative), some (.lda, .indirectY), none, none,
   some (.ldy, .zeropageX), some (.lda, .zeropageX), some (.ldx, .zeropageY), none,
   some (.clv, .implicit), some (.lda, .absoluteY), some (.tsx, .implicit), none,
   some (.ldy, .absoluteX), some (.lda, .absoluteX), some (.ldx, .absoluteY), none]

/-- Row Cx of the grid of R73. -/
def opcodeRowC : List Entry :=
  [some (.cpy, .immediate), some (.cmp, .indirectX), none, none,
   some (.cpy, .zeropage), some (.cmp, .zeropage), some (.dec, .zeropage), none,
   some (.iny, .implicit), some (.cmp, .immediate), some (.dex, .implicit), none,
   some (.cpy, .absolute), some (.cmp, .absolute), some (.dec, .absolute), none]

/-- Row Dx of the grid of R73. -/
def opcodeRowD : List Entry :=
  [some (.bne, .relative), some (.cmp, .indirectY), none, none,
   none, some (.cmp, .zeropageX), some (.dec, .zeropageX), none,
   some (.cld, .implicit), some (.cmp, .absoluteY), none, none,
   none, some (.cmp, .absoluteX), some (.dec, .absoluteX), none]

/-- Row Ex of the grid of R73. -/
def opcodeRowE : List Entry :=
  [some (.cpx, .immediate), some (.sbc, .indirectX), none, none,
   some (.cpx, .zeropage), some (.sbc, .zeropage), some (.inc, .zeropage), none,
   some (.inx, .implicit), some (.sbc, .immediate), some (.nop, .implicit), none,
   some (.cpx, .absolute), some (.sbc, .absolute), some (.inc, .absolute), none]

/-- Row Fx of the grid of R73. -/
def opcodeRowF : List Entry :=
  [some (.beq, .relative), some (.sbc, .indirectY), none, none,
   none, some (.sbc, .zeropageX), some (.inc, .zeropageX), none,
   some (.sed, .implicit), some (.sbc, .absoluteY), none, none,
   none, some (.sbc, .absoluteX), some (.inc, .absoluteX), none]

/-- The 256-entry decode table (R72, R73), one row per high nibble. -/
def opcodeGrid : List (List Entry) :=
  [opcodeRow0, opcodeRow1, opcodeRow2, opcodeRow3] ++ [opcodeRow4, opcodeRow5, opcodeRow6, opcodeRow7] ++
  [opcodeRow8, opcodeRow9, opcodeRowA, opcodeRowB] ++ [opcodeRowC, opcodeRowD, opcodeRowE, opcodeRowF]

/-- `DecodeTable[op]` of R92: row by the high nibble, column by the low nibble. -/
def decodeEntry (op : Byte) : Entry :=
  (opcodeGrid.getD (op.toNat / 16) []).getD (op.toNat % 16) none

/-- `(hi << 8) | lo` (R9, R44): a 16-bit value from its two bytes. -/
def joinBytes (hi lo : Byte) : Addr := hi ++ lo

/-- `w[7:0]`. -/
def lowByte (w : Addr) : Byte := w.setWidth 8

/-- `w[15:8]`. -/
def highByte (w : Addr) : Byte := (w >>> 8).setWidth 8

/-- The operand of a mode, from the bytes after the opcode (R71): none, one, or a little-endian pair.
Bytes a mode does not have are ignored. -/
def Mode.withBytes (m : Mode) (b1 b2 : Byte) : Operand :=
  match m with
  | .implicit => .implicit
  | .accumulator => .accumulator
  | .immediate => .immediate b1
  | .absolute => .absolute (joinBytes b2 b1)
  | .absoluteX => .absoluteX (joinBytes b2 b1)
  | .absoluteY => .absoluteY (joinBytes b2 b1)
  | .indirect => .indirect (joinBytes b2 b1)
  | .indirectX => .indirectX b1
  | .indirectY => .indirectY b1
  | .relative => .relative b1
  | .zeropage => .zeropage b1
  | .zeropageX => .zeropageX b1
  | .zeropageY => .zeropageY b1

/-- The instruction of an opcode byte and the two bytes after it. Total: every opcode byte has an
entry, null or not (R72, R74). -/
def decodeBytes (op b1 b2 : Byte) : Instr :=
  match decodeEntry op with
  | some (o, m) => o.withOperand (m.withBytes b1 b2)
  | none => .null op

/-- Why a list of bytes is no instruction. Memory wraps (R15), so a fetch never meets either. -/
inductive DecodeError where
  /-- There is no byte at all. -/
  | noOpcodeByte
  /-- The list ends before the last operand byte of this opcode. -/
  | missingOperandByte (op : Byte)
  deriving DecidableEq, Repr

/-- The decoder on a list of bytes: the instruction and the bytes after it, or a rejection by name. -/
def decode : List Byte → Except DecodeError (Instr × List Byte)
  | [] => .error .noOpcodeByte
  | op :: rest =>
    let i := decodeBytes op (rest.getD 0 0) (rest.getD 1 0)
    if rest.length + 1 < i.length then .error (.missingOperandByte op)
    else .ok (i, rest.drop (i.length - 1))

/-- The Encodings entry of each operation's rule: its modes and their opcode bytes. -/
def Operation.encodings : Operation → List (Mode × Byte)
  | .lda => [(.immediate, 0xA9#8), (.zeropage, 0xA5#8), (.zeropageX, 0xB5#8), (.absolute, 0xAD#8), (.absoluteX, 0xBD#8), (.absoluteY, 0xB9#8), (.indirectX, 0xA1#8), (.indirectY, 0xB1#8)]
  | .ldx => [(.immediate, 0xA2#8), (.zeropage, 0xA6#8), (.zeropageY, 0xB6#8), (.absolute, 0xAE#8), (.absoluteY, 0xBE#8)]
  | .ldy => [(.immediate, 0xA0#8), (.zeropage, 0xA4#8), (.zeropageX, 0xB4#8), (.absolute, 0xAC#8), (.absoluteX, 0xBC#8)]
  | .sta => [(.zeropage, 0x85#8), (.zeropageX, 0x95#8), (.absolute, 0x8D#8), (.absoluteX, 0x9D#8), (.absoluteY, 0x99#8), (.indirectX, 0x81#8), (.indirectY, 0x91#8)]
  | .stx => [(.zeropage, 0x86#8), (.zeropageY, 0x96#8), (.absolute, 0x8E#8)]
  | .sty => [(.zeropage, 0x84#8), (.zeropageX, 0x94#8), (.absolute, 0x8C#8)]
  | .tax => [(.implicit, 0xAA#8)]
  | .tay => [(.implicit, 0xA8#8)]
  | .tsx => [(.implicit, 0xBA#8)]
  | .txa => [(.implicit, 0x8A#8)]
  | .tya => [(.implicit, 0x98#8)]
  | .txs => [(.implicit, 0x9A#8)]
  | .adc => [(.immediate, 0x69#8), (.zeropage, 0x65#8), (.zeropageX, 0x75#8), (.absolute, 0x6D#8), (.absoluteX, 0x7D#8), (.absoluteY, 0x79#8), (.indirectX, 0x61#8), (.indirectY, 0x71#8)]
  | .sbc => [(.immediate, 0xE9#8), (.zeropage, 0xE5#8), (.zeropageX, 0xF5#8), (.absolute, 0xED#8), (.absoluteX, 0xFD#8), (.absoluteY, 0xF9#8), (.indirectX, 0xE1#8), (.indirectY, 0xF1#8)]
  | .cmp => [(.immediate, 0xC9#8), (.zeropage, 0xC5#8), (.zeropageX, 0xD5#8), (.absolute, 0xCD#8), (.absoluteX, 0xDD#8), (.absoluteY, 0xD9#8), (.indirectX, 0xC1#8), (.indirectY, 0xD1#8)]
  | .cpx => [(.immediate, 0xE0#8), (.zeropage, 0xE4#8), (.absolute, 0xEC#8)]
  | .cpy => [(.immediate, 0xC0#8), (.zeropage, 0xC4#8), (.absolute, 0xCC#8)]
  | .and => [(.immediate, 0x29#8), (.zeropage, 0x25#8), (.zeropageX, 0x35#8), (.absolute, 0x2D#8), (.absoluteX, 0x3D#8), (.absoluteY, 0x39#8), (.indirectX, 0x21#8), (.indirectY, 0x31#8)]
  | .ora => [(.immediate, 0x09#8), (.zeropage, 0x05#8), (.zeropageX, 0x15#8), (.absolute, 0x0D#8), (.absoluteX, 0x1D#8), (.absoluteY, 0x19#8), (.indirectX, 0x01#8), (.indirectY, 0x11#8)]
  | .eor => [(.immediate, 0x49#8), (.zeropage, 0x45#8), (.zeropageX, 0x55#8), (.absolute, 0x4D#8), (.absoluteX, 0x5D#8), (.absoluteY, 0x59#8), (.indirectX, 0x41#8), (.indirectY, 0x51#8)]
  | .bit => [(.zeropage, 0x24#8), (.absolute, 0x2C#8)]
  | .asl => [(.accumulator, 0x0A#8), (.zeropage, 0x06#8), (.zeropageX, 0x16#8), (.absolute, 0x0E#8), (.absoluteX, 0x1E#8)]
  | .lsr => [(.accumulator, 0x4A#8), (.zeropage, 0x46#8), (.zeropageX, 0x56#8), (.absolute, 0x4E#8), (.absoluteX, 0x5E#8)]
  | .rol => [(.accumulator, 0x2A#8), (.zeropage, 0x26#8), (.zeropageX, 0x36#8), (.absolute, 0x2E#8), (.absoluteX, 0x3E#8)]
  | .ror => [(.accumulator, 0x6A#8), (.zeropage, 0x66#8), (.zeropageX, 0x76#8), (.absolute, 0x6E#8), (.absoluteX, 0x7E#8)]
  | .inc => [(.zeropage, 0xE6#8), (.zeropageX, 0xF6#8), (.absolute, 0xEE#8), (.absoluteX, 0xFE#8)]
  | .dec => [(.zeropage, 0xC6#8), (.zeropageX, 0xD6#8), (.absolute, 0xCE#8), (.absoluteX, 0xDE#8)]
  | .inx => [(.implicit, 0xE8#8)]
  | .iny => [(.implicit, 0xC8#8)]
  | .dex => [(.implicit, 0xCA#8)]
  | .dey => [(.implicit, 0x88#8)]
  | .bcc => [(.relative, 0x90#8)]
  | .bcs => [(.relative, 0xB0#8)]
  | .bne => [(.relative, 0xD0#8)]
  | .beq => [(.relative, 0xF0#8)]
  | .bpl => [(.relative, 0x10#8)]
  | .bmi => [(.relative, 0x30#8)]
  | .bvc => [(.relative, 0x50#8)]
  | .bvs => [(.relative, 0x70#8)]
  | .jmp => [(.absolute, 0x4C#8), (.indirect, 0x6C#8)]
  | .jsr => [(.absolute, 0x20#8)]
  | .rts => [(.implicit, 0x60#8)]
  | .rti => [(.implicit, 0x40#8)]
  | .pha => [(.implicit, 0x48#8)]
  | .php => [(.implicit, 0x08#8)]
  | .pla => [(.implicit, 0x68#8)]
  | .plp => [(.implicit, 0x28#8)]
  | .clc => [(.implicit, 0x18#8)]
  | .sec => [(.implicit, 0x38#8)]
  | .cld => [(.implicit, 0xD8#8)]
  | .sed => [(.implicit, 0xF8#8)]
  | .cli => [(.implicit, 0x58#8)]
  | .sei => [(.implicit, 0x78#8)]
  | .clv => [(.implicit, 0xB8#8)]
  | .brk => [(.implicit, 0x00#8)]
  | .nop => [(.implicit, 0xEA#8)]

/-- The opcode byte of an operation in a mode, if it has that mode. -/
def opcodeOf (o : Operation) (m : Mode) : Option Byte := (o.encodings.find? (·.1 = m)).map (·.2)

/-- The operand bytes of an instruction, in memory order (R71, R95). -/
def Operand.bytes : Operand → List Byte
  | .implicit => []
  | .accumulator => []
  | .immediate v => [v]
  | .absolute a => [lowByte a, highByte a]
  | .absoluteX a => [lowByte a, highByte a]
  | .absoluteY a => [lowByte a, highByte a]
  | .indirect a => [lowByte a, highByte a]
  | .indirectX zp => [zp]
  | .indirectY zp => [zp]
  | .relative off => [off]
  | .zeropage zp => [zp]
  | .zeropageX zp => [zp]
  | .zeropageY zp => [zp]

/-- The bytes of a well-formed instruction; an ill-formed one has none. -/
def encode (i : Instr) : List Byte :=
  match i.parts with
  | .inl op => [op]
  | .inr (o, m) =>
    match opcodeOf o m.mode with
    | some op => op :: m.bytes
    | none => []

/-- Byte `k` of a word whose bit 0 is the lowest bit of the first byte. -/
def wordByte (w k : Nat) : Byte := BitVec.ofNat 8 (w >>> (8 * k))

/-- The three bytes of an instruction word of `nbits` bits; every bit above is 0. -/
def wordBytes (nbits w : Nat) : List Byte :=
  let v := w % 2 ^ nbits
  [wordByte v 0, wordByte v 1, wordByte v 2]

/-- The instruction the decoder reads from a word of the opcode table. -/
def decodeTableWord (nbits w : Nat) : Option Instr :=
  match decode (wordBytes nbits w) with
  | .ok (i, _) => some i
  | .error _ => none

end Sys2Proof
end

