-- ==== Sys2Proof/Machine/State.lean ====
section
/-! DEFINITION. The state of the block (10_state.md), the ways a step can stop, and the state after
reset (10_state.md R30, 70_reset_and_hazards.md R250). -/

namespace Sys2Proof.Machine

/-- The array M of R26, 65 536 cells: the cells that hold something other than 0, by rising address.
An unlisted address reads as 0x00, its value after reset (R30, R43). -/
abbrev Memory := List Host.Cell

/-- The canonical form: addresses strictly rising and below 65536, no cell holding 0. -/
def Memory.wf : Memory → Bool
  | [] => true
  | [(a, v)] => decide (a < 65536) && decide (v ≠ 0)
  | (a, v) :: (b, w) :: rest => decide (a < b) && decide (v ≠ 0) && Memory.wf ((b, w) :: rest)

/-- The six registers of R10 and the memory of R26, with the bit the last step returned (R28). -/
structure State where
  /-- Accumulator (R11). -/
  a : Byte
  /-- Index register X (R12). -/
  x : Byte
  /-- Index register Y (R13). -/
  y : Byte
  /-- Stack pointer: the low byte of the next free slot's address (R14). -/
  sp : Byte
  /-- Program counter (R15). -/
  pc : Addr
  /-- Processor status, one stored byte `NV-BDIZC` (R16). -/
  p : Byte
  /-- The memory array (R26). -/
  mem : Memory
  /-- THE MODEL'S OWN FIELD: the output bit `ok` of the last step (R28). No instruction reads it
  (R231: a halt is not sticky). Log entry 1. -/
  ok : Bool
  deriving DecidableEq, Repr

/-- The block's only fault, InternalError (60_exceptions.md R232), by its three cases. No decoded
instruction raises one; an ill-formed term of Instr can. All are safe: the state is never final. -/
inductive Fault where
  /-- `read()` of an Implicit handle (30_encoding.md R89, U1). Raised by `Handle.read`. Safe. -/
  | readOfImplicit
  /-- `write()` to an Immediate or Implicit handle (R90, U2). Raised by `Handle.write`. Safe. -/
  | writeToNonWritable
  /-- `target()` of a handle that is no Memory handle (R91, U3). Raised by `Handle.target`. Safe. -/
  | targetOfNonMemory
  deriving DecidableEq, Repr

/-- Reasons to refuse. The model refuses nothing: no arm of `exec` and no meaning raises one. -/
inductive Refusal where
  /-- An instruction without a meaning yet, by its mnemonic. Raised by an arm of `exec`; none does. Safe. -/
  | notModelled (mnemonic : String)
  deriving DecidableEq, Repr

/-- The block after `reset()`, and at construction (R30, R250 to R252). `ok` is no state of the block;
its value here is the model's: DESIGN CHOICE, log entry 1. -/
def State.reset : State :=
  { a := 0x00, x := 0x00, y := 0x00, sp := 0xFD, pc := Config.loadAddress, p := 0x24, mem := [],
    ok := true }

def State.setA (s : State) (v : Byte) : State := { s with a := v }
def State.setX (s : State) (v : Byte) : State := { s with x := v }
def State.setY (s : State) (v : Byte) : State := { s with y := v }
def State.setSp (s : State) (v : Byte) : State := { s with sp := v }
def State.setPc (s : State) (w : Addr) : State := { s with pc := w }
def State.setP (s : State) (v : Byte) : State := { s with p := v }
def State.setMem (s : State) (m : Memory) : State := { s with mem := m }
def State.setOk (s : State) (b : Bool) : State := { s with ok := b }

end Sys2Proof.Machine
end

