-- ==== Sys2Proof/Machine/Flags.lean ====
section
/-! DEFINITION. The flags of P (10_state.md R16 to R24) and the 8-bit ALU (40_alu.md R110 to R118). The
ALU never reads P.D (R117). -/

namespace Sys2Proof.Machine

/-- The eight flags of P. -/
inductive Flag where
  | c | z | i | d | b | u | v | n
  deriving DecidableEq, Repr

/-- The bit of P that holds a flag (R16). -/
def Flag.bit : Flag → Nat
  | .c => 0
  | .z => 1
  | .i => 2
  | .d => 3
  | .b => 4
  | .u => 5
  | .v => 6
  | .n => 7

/-- `P.F` of R9. -/
def State.flag (s : State) (f : Flag) : Bool := s.p.getLsbD f.bit

/-- A status byte with one flag replaced. -/
def putFlag (p : Byte) (f : Flag) (on : Bool) : Byte :=
  if on then p ||| (1#8 <<< f.bit) else p &&& ~~~(1#8 <<< f.bit)

/-- `P.F <- on` of R9. -/
def State.setFlag (s : State) (f : Flag) (on : Bool) : State := s.setP (putFlag s.p f on)

/-- `v[7]`. -/
def bit7 (v : Byte) : Bool := v.getLsbD 7

/-- `SetNZ(v)` (R110): Z from v = 0, N from bit 7. -/
def State.setNZ (s : State) (v : Byte) : State := (s.setFlag .z (v = 0)).setFlag .n (bit7 v)

/-- The three outputs of the adder. -/
structure AddOut where
  r : Byte
  c : Bool
  v : Bool
  deriving DecidableEq, Repr

/-- `Add8(a, b, cin)` (R111, conflict C4): exact sum, carry out, and signed overflow where the
operands' signs agree and the result's differs. -/
def add8 (a b : Byte) (cin : Bool) : AddOut :=
  let sum := a.toNat + b.toNat + cin.toNat
  let r := BitVec.ofNat 8 sum
  { r := r, c := decide (256 ≤ sum), v := bit7 a == bit7 b && bit7 r != bit7 a }

/-- `Compare(r, m)` (R113): C unsigned, Z equal, N bit 7 of the difference. V is not written. -/
def State.compare (s : State) (r m : Byte) : State :=
  ((s.setFlag .c (m.toNat ≤ r.toNat)).setFlag .z (r = m)).setFlag .n (bit7 (r - m))

/-- `Asl8` (R115): the result, and the old bit 7. -/
def asl8 (v : Byte) : Byte × Bool := (v <<< 1, v.getLsbD 7)

/-- `Lsr8` (R115): the result, and the old bit 0. -/
def lsr8 (v : Byte) : Byte × Bool := (v >>> 1, v.getLsbD 0)

/-- `Rol8` (R115): the carry in becomes bit 0. -/
def rol8 (v : Byte) (cin : Bool) : Byte × Bool := ((v <<< 1) ||| (if cin then 0x01 else 0x00), v.getLsbD 7)

/-- `Ror8` (R115): the carry in becomes bit 7. -/
def ror8 (v : Byte) (cin : Bool) : Byte × Bool := ((v >>> 1) ||| (if cin then 0x80 else 0x00), v.getLsbD 0)

/-- `Inc8` (R116). -/
def inc8 (v : Byte) : Byte := v + 1

/-- `Dec8` (R116). -/
def dec8 (v : Byte) : Byte := v - 1

/-- The copy of P that PHP and BRK push (R211, R221): B forced to 1. -/
def pushedStatus (p : Byte) : Byte := p ||| 0x10

/-- The P that PLP and RTI restore from a pulled byte (R203, R213): U forced to 1, B forced to 0. -/
def pulledStatus (v : Byte) : Byte := (v ||| 0x20) &&& 0xEF

end Sys2Proof.Machine
end

