-- ==== Sys2Proof/Machine/Ops.lean ====
section
/-! DEFINITION. The named operations over memory and registers: memory and the stack (20_memory.md),
fetching an instruction, the two outcomes of a step, taking BRK's trap and returning from it. -/

namespace Sys2Proof.Machine

/-- What a meaning answers. -/
abbrev Result := Host.Outcome State Fault Refusal

/-! ### Memory -/

/-- The byte at an address; an unlisted address reads as 0x00. -/
def Memory.read : Memory → Nat → Byte
  | [], _ => 0
  | (k, v) :: rest, a => if k = a then v else Memory.read rest a

/-- A memory with one address unlisted. -/
def Memory.erase (m : Memory) (a : Nat) : Memory := m.filter fun c => c.1 != a

/-- A cell put before the first higher address. -/
def Memory.insertCell : Memory → Nat → Byte → Memory
  | [], a, v => [(a, v)]
  | (k, w) :: rest, a, v => if a < k then (a, v) :: (k, w) :: rest else (k, w) :: Memory.insertCell rest a v

/-- One cell set, the canonical form kept: a cell that holds 0 is not listed. -/
def Memory.write (m : Memory) (a : Nat) (v : Byte) : Memory :=
  if v = 0 then m.erase a else (m.erase a).insertCell a v

/-- `MemRead(addr, 1)` (R41). -/
def State.memRead (s : State) (addr : Addr) : Byte := s.mem.read addr.toNat

/-- `MemWrite(addr, 1, v)` (R42). -/
def State.memWrite (s : State) (addr : Addr) (v : Byte) : State := s.setMem (s.mem.write addr.toNat v)

/-- `Read16(lo_addr, hi_addr)` (R45). -/
def State.read16 (s : State) (loAddr hiAddr : Addr) : Addr := joinBytes (s.memRead hiAddr) (s.memRead loAddr)

/-! ### The stack -/

/-- `0x0100 + SP`: a stack access never leaves the stack page (R48). -/
def stackAddr (sp : Byte) : Addr := 0x0100 + sp.setWidth 16

/-- `Push(v)` (R50). -/
def State.push (s : State) (v : Byte) : State := (s.memWrite (stackAddr s.sp) v).setSp (s.sp - 1)

/-- `Push16(w)` (R52): the high byte first; SP wraps between the two. -/
def State.push16 (s : State) (w : Addr) : State := (s.push (highByte w)).push (lowByte w)

/-- `Pop()` (R51): the byte, and the state with SP one higher. -/
def State.pop (s : State) : Byte × State := (s.memRead (stackAddr (s.sp + 1)), s.setSp (s.sp + 1))

/-- `Pop16()` (R53): the low byte first. -/
def State.pop16 (s : State) : Addr × State := (joinBytes s.pop.2.pop.1 s.pop.1, s.pop.2.pop.2)

/-! ### Fetching -/

/-- The instruction at PC: the opcode byte, and the bytes after it that its mode takes, PC wrapping
(R75, R92). A mode with fewer bytes ignores the rest; a read has no effect (R41, log entry 8). -/
def State.fetchInstr (s : State) : Instr :=
  decodeBytes (s.memRead s.pc) (s.memRead (s.pc + 1)) (s.memRead (s.pc + 2))

/-- PC past the instruction's bytes, as the fetch and the resolver leave it (R15, R75). -/
def State.advancePast (s : State) (i : Instr) : State := s.setPc (s.pc + BitVec.ofNat 16 i.length)

/-- Bytes stored from PC on, PC unchanged: an instruction put where the next step fetches. -/
def State.placeAtPc (s : State) (b0 b1 b2 : Byte) : State :=
  ((s.memWrite s.pc b0).memWrite (s.pc + 1) b1).memWrite (s.pc + 2) b2

/-! ### Outcomes of a step -/

/-- The step returns true (R92 stage 6). -/
def complete (s : State) : Result := .next (s.setOk true)

/-- The step returns false (R9 `halt`, R231): a next state, since the host may step again. -/
def halt (s : State) : Result := .next (s.setOk false)

/-! ### Trap entry and return -/

/-- Trap entry by BRK (R221, R236), in the order the rule gives: I set, PC pushed, P pushed with B = 1,
and PC from the vector if BRK_LOADS_VECTOR. -/
def State.enterBreak (s : State) (c : Config) : State :=
  let s1 := s.setFlag .i true
  let s2 := s1.push16 s1.pc
  let s3 := s2.push (pushedStatus s2.p)
  if c.brkLoadsVector then s3.setPc (s3.read16 0xFFFE 0xFFFF) else s3

/-- Trap return by RTI (R203, R237): P with U = 1 and B = 0, then PC, no 1 added. -/
def State.leaveBreak (s : State) : State :=
  let t := s.pop.2.setP (pulledStatus s.pop.1)
  t.pop16.2.setPc t.pop16.1

/-- The parameters `step` runs with: the spec's values. Log entry 2. -/
def machineConfig : Config := Config.specValues

end Sys2Proof.Machine
end

