-- ==== Sys2Proof/Machine/Operands.lean ====
section
/-! DEFINITION. The resolver of the 13 addressing modes (30_encoding.md R75 to R88), the operand handle and
its three operations (10_state.md R27, 30_encoding.md R89 to R91), and the operand forms the meanings share. -/

namespace Sys2Proof.Machine

/-- The operand handle (R27). It lives inside one step only. -/
inductive Handle where
  | implicit
  | accumulator
  | memory (addr : Addr)
  | immediate (v : Byte)
  deriving DecidableEq, Repr

/-- `zext_16(v)` (R9). -/
def zext16 (v : Byte) : Addr := v.setWidth 16

/-- `sext_16(v)` (R9). -/
def sext16 (v : Byte) : Addr := if bit7 v then zext16 v + 0xFF00 else zext16 v

/-- Where Indirect reads the high byte of its pointer: the next address, but inside the same page (R82). -/
def indirectHighAddr (a : Addr) : Addr := if lowByte a = 0xFF then a &&& 0xFF00 else a + 1

/-- The resolver (R75 to R88), PC already past the operand bytes. -/
def resolve : Operand → State → Handle
  | .implicit, _ => .implicit
  | .accumulator, _ => .accumulator
  | .immediate v, _ => .immediate v
  | .absolute a, _ => .memory a
  | .absoluteX a, s => .memory (a + zext16 s.x)
  | .absoluteY a, s => .memory (a + zext16 s.y)
  | .indirect a, s => .memory (s.read16 a (indirectHighAddr a))
  | .indirectX zp, s => .memory (s.read16 (zext16 (zp + s.x)) (zext16 (zp + s.x + 1)))
  | .indirectY zp, s => .memory (s.read16 (zext16 zp) (zext16 (zp + 1)) + zext16 s.y)
  | .relative off, s => .memory (s.pc + sext16 off)
  | .zeropage zp, _ => .memory (zext16 zp)
  | .zeropageX zp, s => .memory (zext16 (zp + s.x))
  | .zeropageY zp, s => .memory (zext16 (zp + s.y))

/-- `read()` (R89). -/
def Handle.read (h : Handle) (s : State) : Except Fault Byte :=
  match h with
  | .accumulator => .ok s.a
  | .memory addr => .ok (s.memRead addr)
  | .immediate v => .ok v
  | .implicit => .error .readOfImplicit

/-- `write(v)` (R90). It writes no flag. -/
def Handle.write (h : Handle) (v : Byte) (s : State) : Except Fault State :=
  match h with
  | .accumulator => .ok (s.setA v)
  | .memory addr => .ok (s.memWrite addr v)
  | .immediate _ => .error .writeToNonWritable
  | .implicit => .error .writeToNonWritable

/-- `target()` (R91): the address; memory is not read. -/
def Handle.target (h : Handle) : Except Fault Addr :=
  match h with
  | .memory addr => .ok addr
  | .accumulator => .error .targetOfNonMemory
  | .immediate _ => .error .targetOfNonMemory
  | .implicit => .error .targetOfNonMemory

/-! ### Operand forms -/

/-- `v <- h.read()`, then what the instruction does with v. -/
def withValue (m : Operand) (s : State) (k : Byte → State) : Result :=
  match (resolve m s).read s with
  | .ok v => complete (k v)
  | .error f => .fault f

/-- `h.write(v)`: a store. The target is not read (R59). -/
def storeValue (m : Operand) (v : Byte) (s : State) : Result :=
  match (resolve m s).write v s with
  | .ok t => complete t
  | .error f => .fault f

/-- Read, shift, `P.C <- cout`, write back, SetNZ: the order of R170 to R173. -/
def shiftOperand (m : Operand) (f : Byte → Byte × Bool) (s : State) : Result :=
  match (resolve m s).read s with
  | .ok v =>
    match (resolve m s).write (f v).1 (s.setFlag .c (f v).2) with
    | .ok t => complete (t.setNZ (f v).1)
    | .error e => .fault e
  | .error e => .fault e

/-- Read, change, write back, SetNZ: the order of R180 and R181. -/
def adjustOperand (m : Operand) (f : Byte → Byte) (s : State) : Result :=
  match (resolve m s).read s with
  | .ok v =>
    match (resolve m s).write (f v) s with
    | .ok t => complete (t.setNZ (f v))
    | .error e => .fault e
  | .error e => .fault e

/-- `t <- h.target()`, then what the instruction does with t. -/
def withTarget (m : Operand) (s : State) (k : Addr → State) : Result :=
  match (resolve m s).target with
  | .ok t => complete (k t)
  | .error f => .fault f

/-- `if cond(P) then pc <- h.target()` (R190). -/
def branchIf (cond : Bool) (m : Operand) (s : State) : Result :=
  if cond then withTarget m s (fun t => s.setPc t) else complete s

end Sys2Proof.Machine
end

