-- ==== Sys2Proof/Machine/Arithmetic.lean ====
section
/-! DEFINITION. Arithmetic and compares: 43_arithmetic_compare.md R150 to R154. Binary for every D (40_alu.md R117). -/

namespace Sys2Proof.Machine

/-- What ADC and SBC do with the adder's outputs: A, C, V, then Z and N. -/
def State.takeSum (s : State) (o : AddOut) : State :=
  (((s.setA o.r).setFlag .c o.c).setFlag .v o.v).setNZ o.r

/-- ADC (R150): A + operand + C. -/
def execAdc (m : Operand) (s : State) : Result :=
  withValue m s fun v => s.takeSum (add8 s.a v (s.flag .c))

/-- SBC (R151): A + ~operand + C (40_alu.md R112). -/
def execSbc (m : Operand) (s : State) : Result :=
  withValue m s fun v => s.takeSum (add8 s.a (~~~v) (s.flag .c))

/-- CMP (R152): compare A. -/
def execCmp (m : Operand) (s : State) : Result :=
  withValue m s fun v => s.compare s.a v

/-- CPX (R153): compare X. -/
def execCpx (m : Operand) (s : State) : Result :=
  withValue m s fun v => s.compare s.x v

/-- CPY (R154): compare Y. -/
def execCpy (m : Operand) (s : State) : Result :=
  withValue m s fun v => s.compare s.y v

end Sys2Proof.Machine
end

