-- ==== Sys2Proof/Machine/Branch.lean ====
section
/-! DEFINITION. Conditional branches: 47_branches.md R190 to R198. -/

namespace Sys2Proof.Machine

/-- BCC (R191): if C = 0. -/
def execBcc (m : Operand) (s : State) : Result :=
  branchIf (!s.flag .c) m s

/-- BCS (R192): if C = 1. -/
def execBcs (m : Operand) (s : State) : Result :=
  branchIf (s.flag .c) m s

/-- BNE (R193): if Z = 0. -/
def execBne (m : Operand) (s : State) : Result :=
  branchIf (!s.flag .z) m s

/-- BEQ (R194): if Z = 1. -/
def execBeq (m : Operand) (s : State) : Result :=
  branchIf (s.flag .z) m s

/-- BPL (R195): if N = 0. -/
def execBpl (m : Operand) (s : State) : Result :=
  branchIf (!s.flag .n) m s

/-- BMI (R196): if N = 1. -/
def execBmi (m : Operand) (s : State) : Result :=
  branchIf (s.flag .n) m s

/-- BVC (R197): if V = 0. -/
def execBvc (m : Operand) (s : State) : Result :=
  branchIf (!s.flag .v) m s

/-- BVS (R198): if V = 1. -/
def execBvs (m : Operand) (s : State) : Result :=
  branchIf (s.flag .v) m s

end Sys2Proof.Machine
end

