-- ==== Sys2Proof/Machine/IncDec.lean ====
section
/-! DEFINITION. Increments and decrements: 46_inc_dec.md R180 to R185. None writes C or V. -/

namespace Sys2Proof.Machine

/-- INC (R180): add 1 to memory, set Z and N. -/
def execInc (m : Operand) (s : State) : Result :=
  adjustOperand m inc8 s

/-- DEC (R181): subtract 1 from memory, set Z and N. -/
def execDec (m : Operand) (s : State) : Result :=
  adjustOperand m dec8 s

/-- INX (R182): add 1 to X (conflict C5), set Z and N. -/
def execInx (s : State) : Result :=
  complete ((s.setX (inc8 s.x)).setNZ (inc8 s.x))

/-- INY (R183): add 1 to Y, set Z and N. -/
def execIny (s : State) : Result :=
  complete ((s.setY (inc8 s.y)).setNZ (inc8 s.y))

/-- DEX (R184): subtract 1 from X, set Z and N. -/
def execDex (s : State) : Result :=
  complete ((s.setX (dec8 s.x)).setNZ (dec8 s.x))

/-- DEY (R185): subtract 1 from Y, set Z and N. -/
def execDey (s : State) : Result :=
  complete ((s.setY (dec8 s.y)).setNZ (dec8 s.y))

end Sys2Proof.Machine
end

