-- ==== Sys2Proof/Machine/Jump.lean ====
section
/-! DEFINITION. Jumps, calls and returns: 48_jumps_calls.md R200 to R203. -/

namespace Sys2Proof.Machine

/-- JMP (R200): PC becomes the target. -/
def execJmp (m : Operand) (s : State) : Result :=
  withTarget m s fun t => s.setPc t

/-- JSR (R201): push PC - 1, the address of its own last byte, and jump. -/
def execJsr (m : Operand) (s : State) : Result :=
  withTarget m s fun t => (s.push16 (s.pc - 1)).setPc t

/-- RTS (R202): pop a 16-bit value and add 1 (conflict C5). -/
def execRts (s : State) : Result :=
  complete (s.pop16.2.setPc (s.pop16.1 + 1))

/-- RTI (R203): return from the trap. -/
def execRti (s : State) : Result :=
  complete s.leaveBreak

end Sys2Proof.Machine
end

