-- ==== Sys2Proof/Machine/LoadStore.lean ====
section
/-! DEFINITION. Loads and stores: 41_load_store.md R130 to R135. -/

namespace Sys2Proof.Machine

/-- LDA (R130): load A, set Z and N. -/
def execLda (m : Operand) (s : State) : Result :=
  withValue m s fun v => (s.setA v).setNZ v

/-- LDX (R131): load X, set Z and N. -/
def execLdx (m : Operand) (s : State) : Result :=
  withValue m s fun v => (s.setX v).setNZ v

/-- LDY (R132): load Y, set Z and N. -/
def execLdy (m : Operand) (s : State) : Result :=
  withValue m s fun v => (s.setY v).setNZ v

/-- STA (R133): store A; no flag. -/
def execSta (m : Operand) (s : State) : Result :=
  storeValue m s.a s

/-- STX (R134): store X; no flag. -/
def execStx (m : Operand) (s : State) : Result :=
  storeValue m s.x s

/-- STY (R135): store Y; no flag. -/
def execSty (m : Operand) (s : State) : Result :=
  storeValue m s.y s

end Sys2Proof.Machine
end

