-- ==== Sys2Proof/Machine/Logical.lean ====
section
/-! DEFINITION. Logical operations and BIT: 44_logical.md R160 to R163. -/

namespace Sys2Proof.Machine

/-- AND (R160): A & operand into A, set Z and N. -/
def execAnd (m : Operand) (s : State) : Result :=
  withValue m s fun v => (s.setA (s.a &&& v)).setNZ (s.a &&& v)

/-- ORA (R161): A | operand into A, set Z and N. -/
def execOra (m : Operand) (s : State) : Result :=
  withValue m s fun v => (s.setA (s.a ||| v)).setNZ (s.a ||| v)

/-- EOR (R162): A ^ operand into A, set Z and N. -/
def execEor (m : Operand) (s : State) : Result :=
  withValue m s fun v => (s.setA (s.a ^^^ v)).setNZ (s.a ^^^ v)

/-- BIT (R163): Z from A & operand, N and V from the operand's bits 7 and 6; A unchanged. -/
def execBit (m : Operand) (s : State) : Result :=
  withValue m s fun v =>
    ((s.setFlag .z (s.a &&& v = 0)).setFlag .n (v.getLsbD 7)).setFlag .v (v.getLsbD 6)

end Sys2Proof.Machine
end

