-- ==== Sys2Proof/Machine/Shift.lean ====
section
/-! DEFINITION. Shifts and rotates: 45_shift_rotate.md R170 to R173. -/

namespace Sys2Proof.Machine

/-- ASL (R170): shift left. -/
def execAsl (m : Operand) (s : State) : Result :=
  shiftOperand m asl8 s

/-- LSR (R171): logical shift right. -/
def execLsr (m : Operand) (s : State) : Result :=
  shiftOperand m lsr8 s

/-- ROL (R172): rotate left through the old C. -/
def execRol (m : Operand) (s : State) : Result :=
  shiftOperand m (fun v => rol8 v (s.flag .c)) s

/-- ROR (R173): rotate right through the old C. -/
def execRor (m : Operand) (s : State) : Result :=
  shiftOperand m (fun v => ror8 v (s.flag .c)) s

end Sys2Proof.Machine
end

