-- ==== Sys2Proof/Machine/StackSystem.lean ====
section
/-! DEFINITION. Stack and flag instructions, BRK, NOP and the null entries: 49_stack_flags_system.md R210 to R222, 30_encoding.md R74. -/

namespace Sys2Proof.Machine

/-- PHA (R210): push A. -/
def execPha (s : State) : Result :=
  complete (s.push s.a)

/-- PHP (R211): push P with B = 1; P itself is unchanged. -/
def execPhp (s : State) : Result :=
  complete (s.push (pushedStatus s.p))

/-- PLA (R212): pull A, set Z and N. -/
def execPla (s : State) : Result :=
  complete ((s.pop.2.setA s.pop.1).setNZ s.pop.1)

/-- PLP (R213): pull P with U = 1 and B = 0. -/
def execPlp (s : State) : Result :=
  complete (s.pop.2.setP (pulledStatus s.pop.1))

/-- CLC (R214): C becomes 0. -/
def execClc (s : State) : Result :=
  complete (s.setFlag .c false)

/-- SEC (R215): C becomes 1. -/
def execSec (s : State) : Result :=
  complete (s.setFlag .c true)

/-- CLD (R216): D becomes 0. -/
def execCld (s : State) : Result :=
  complete (s.setFlag .d false)

/-- SED (R217): D becomes 1. -/
def execSed (s : State) : Result :=
  complete (s.setFlag .d true)

/-- CLI (R218): I becomes 0. -/
def execCli (s : State) : Result :=
  complete (s.setFlag .i false)

/-- SEI (R219): I becomes 1. -/
def execSei (s : State) : Result :=
  complete (s.setFlag .i true)

/-- CLV (R220): V becomes 0. -/
def execClv (s : State) : Result :=
  complete (s.setFlag .v false)

/-- NOP (R222): nothing. -/
def execNop (s : State) : Result :=
  complete s

/-- BRK under any parameters (R221, R92): the trap entry, and false returned if BRK_HALTS. -/
def execBrkWith (c : Config) (s : State) : Result :=
  if c.brkHalts then halt (s.enterBreak c) else complete (s.enterBreak c)

/-- BRK (R221) under the parameters of `step`. -/
def execBrk (s : State) : Result := execBrkWith machineConfig s

/-- A null entry (R74, R231): nothing but the opcode byte is consumed, and the step returns false. -/
def execNull (_op : Byte) (s : State) : Result := halt s

end Sys2Proof.Machine
end

