-- ==== Sys2Proof/Machine/Transfer.lean ====
section
/-! DEFINITION. Register transfers: 42_transfers.md R140 to R145. -/

namespace Sys2Proof.Machine

/-- TAX (R140): A to X, set Z and N. -/
def execTax (s : State) : Result :=
  complete ((s.setX s.a).setNZ s.a)

/-- TAY (R141): A to Y, set Z and N. -/
def execTay (s : State) : Result :=
  complete ((s.setY s.a).setNZ s.a)

/-- TSX (R142): SP to X, set Z and N. -/
def execTsx (s : State) : Result :=
  complete ((s.setX s.sp).setNZ s.sp)

/-- TXA (R143): X to A, set Z and N. -/
def execTxa (s : State) : Result :=
  complete ((s.setA s.x).setNZ s.x)

/-- TYA (R144): Y to A, set Z and N. -/
def execTya (s : State) : Result :=
  complete ((s.setA s.y).setNZ s.y)

/-- TXS (R145): X to SP; no flag. -/
def execTxs (s : State) : Result :=
  complete (s.setSp s.x)

end Sys2Proof.Machine
end

