-- ==== Sys2Proof/Machine/Step.lean ====
section
/-! DEFINITION. One step: 30_encoding.md R92. -/

namespace Sys2Proof.Machine

/-- `step()` (R92): fetch and decode at PC, PC past the instruction, then its meaning. The bit it
returns is `ok` of the next state. -/
def step (s : State) : Host.Outcome State Fault Refusal :=
  exec s.fetchInstr (s.advancePast s.fetchInstr)

/-- An instruction word of the opcode table stored at PC, three bytes with every bit above `nbits` 0: what
`load_program` does before the first step (log entry 9). -/
def State.withFetchWord (s : State) (nbits w : Nat) : State :=
  s.placeAtPc (wordByte (w % 2 ^ nbits) 0) (wordByte (w % 2 ^ nbits) 1) (wordByte (w % 2 ^ nbits) 2)

end Sys2Proof.Machine
end

