-- ==== Sys2Proof/Machine/HostOps.lean ====
section
/-! DEFINITION. What the host can do to the block (10_state.md R31, 70_reset_and_hazards.md R250 to R256), a
step under any parameters (00_scope.md R6, R7), the outcome codes (60_exceptions.md R230) and the
end-of-run convention (70_reset_and_hazards.md R262). -/

namespace Sys2Proof.Machine

/-! ### A step under any parameters -/

/-- `exec` with the parameters as an argument (R6): only BRK reads them. -/
def execWith (c : Config) (i : Instr) (s : State) : Result :=
  if i = .brk then execBrkWith c s else exec i s

/-- `step` with the parameters as an argument (R6, R92). -/
def stepWith (c : Config) (s : State) : Result :=
  execWith c s.fetchInstr (s.advancePast s.fetchInstr)

/-! ### Loading -/

/-- LOAD_ERROR (R230): `load_program` with offset + length above 65536. -/
inductive LoadError where
  | loadError
  deriving DecidableEq, Repr

/-- Bytes written from an address up, one after another. -/
def State.writeBytes : State → Nat → List Byte → State
  | s, _, [] => s
  | s, a, v :: rest => State.writeBytes (s.setMem (s.mem.write a v)) (a + 1) rest

/-- `load_program(bytes, offset)` (R253): no wrap, a failure changes nothing, PC becomes the offset. -/
def loadProgram (bytes : List Byte) (offset : Addr) (s : State) : Except LoadError State :=
  if 65536 < offset.toNat + bytes.length then .error .loadError
  else .ok ((s.writeBytes offset.toNat bytes).setPc offset)

/-! ### The host's calls -/

/-- One call of the host, between steps (R256): the three operations and the writes of direct field
access (R31). A read of a field is the field. -/
inductive HostCall where
  | reset
  | loadAt (bytes : List Byte) (offset : Addr)
  | load (bytes : List Byte)
  | step
  | writeA (v : Byte)
  | writeX (v : Byte)
  | writeY (v : Byte)
  | writeSp (v : Byte)
  | writePc (w : Addr)
  | writeP (v : Byte)
  | writeMem (addr : Addr) (v : Byte)
  deriving DecidableEq, Repr

/-- The outcome codes of R230 (names by decision D21). -/
inductive OutcomeCode where
  | ok | haltUndoc | haltBrk | internalError | loadError
  deriving DecidableEq, Repr

/-- The code of a step that answered `r` on instruction `i`. The code of a refusal, which no step answers,
is the model's: DESIGN CHOICE, log entry 12. -/
def outcomeCode (i : Instr) (r : Result) : OutcomeCode :=
  match r with
  | .next t => if t.ok then .ok else if i = .brk then .haltBrk else .haltUndoc
  | .fault _ => .internalError
  | .refused _ => .internalError

/-- The code of the step from a state (R230). -/
def stepCode (c : Config) (s : State) : OutcomeCode := outcomeCode s.fetchInstr (stepWith c s)

/-- A host call: its code and the state after it. A failing load changes nothing (R253); an internal
error leaves no state (R232: never final). R230 gives a code to steps and to a failing load only: that
reset, a successful load and a field write answer OK is the model's: DESIGN CHOICE, log entry 12, unsafe. -/
def hostCall (c : Config) : HostCall → State → OutcomeCode × Option State
  | .reset, _ => (.ok, some State.reset)
  | .loadAt bytes offset, s =>
    match loadProgram bytes offset s with
    | .ok t => (.ok, some t)
    | .error .loadError => (.loadError, some s)
  | .load bytes, s =>
    match loadProgram bytes Config.loadAddress s with
    | .ok t => (.ok, some t)
    | .error .loadError => (.loadError, some s)
  | .step, s =>
    match stepWith c s with
    | .next t => (stepCode c s, some t)
    | .fault _ => (.internalError, none)
    | .refused _ => (.internalError, none)
  | .writeA v, s => (.ok, some (s.setA v))
  | .writeX v, s => (.ok, some (s.setX v))
  | .writeY v, s => (.ok, some (s.setY v))
  | .writeSp v, s => (.ok, some (s.setSp v))
  | .writePc w, s => (.ok, some (s.setPc w))
  | .writeP v, s => (.ok, some (s.setP v))
  | .writeMem addr v, s => (.ok, some (s.memWrite addr v))

/-! ### The end of a run -/

/-- Ending 2 of R262: the host does not step an opcode byte 0x00. -/
def hostStopsBefore (c : Config) (s : State) : Bool := c.hostStopAtBrk && s.memRead s.pc == 0x00

/-- How a run under fuel ends (R260: nothing says that it ends). -/
inductive RunEnd where
  /-- The end of R262: its final state, and the steps taken. -/
  | ended (s : State) (steps : Nat)
  /-- The fuel ran out at this boundary. -/
  | outOfFuel (s : State)
  /-- A step raised InternalError or was refused; no decoded instruction does. -/
  | aborted
  deriving DecidableEq, Repr

/-- `RunEnd` one step later. -/
def RunEnd.later : RunEnd → RunEnd
  | .ended s n => .ended s (n + 1)
  | .outOfFuel s => .outOfFuel s
  | .aborted => .aborted

/-- A run from a launch state to the first boundary of R262. At the launch boundary no step has
returned, so only ending 2 can apply there (log entry 10). -/
def runToEnd (c : Config) : Nat → State → RunEnd
  | 0, s => if hostStopsBefore c s then .ended s 0 else .outOfFuel s
  | fuel + 1, s =>
    if hostStopsBefore c s then .ended s 0
    else
      match stepWith c s with
      | .next t => if t.ok then (runToEnd c fuel t).later else .ended t 1
      | .fault _ => .aborted
      | .refused _ => .aborted

end Sys2Proof.Machine
end

