-- ==== Sys2Proof/Machine/Access.lean ====
section
/-! DEFINITION. The memory accesses of one step, in order: 20_memory.md R59. They are no state and no step
depends on them: this lists what the meanings read and write. -/

namespace Sys2Proof.Machine

/-- One byte access. -/
inductive Access where
  | read (addr : Addr)
  | write (addr : Addr) (v : Byte)
  deriving DecidableEq, Repr

/-- The instruction's own bytes: the opcode fetch, then the operand bytes in instruction order. -/
def fetchAccesses (s : State) : List Access :=
  (List.range s.fetchInstr.length).map fun k => .read (s.pc + BitVec.ofNat 16 k)

/-- The resolver's pointer reads, low first; the other modes have none. -/
def resolverAccesses (m : Operand) (s : State) : List Access :=
  match m with
  | .indirect a => [.read a, .read (indirectHighAddr a)]
  | .indirectX zp => [.read (zext16 (zp + s.x)), .read (zext16 (zp + s.x + 1))]
  | .indirectY zp => [.read (zext16 zp), .read (zext16 (zp + 1))]
  | .implicit => []
  | .accumulator => []
  | .immediate _ => []
  | .absolute _ => []
  | .absoluteX _ => []
  | .absoluteY _ => []
  | .relative _ => []
  | .zeropage _ => []
  | .zeropageX _ => []
  | .zeropageY _ => []

/-- The one access of a handle's `read()`, if it is a Memory handle. -/
def Handle.readAccesses : Handle → List Access
  | .memory addr => [.read addr]
  | .implicit => []
  | .accumulator => []
  | .immediate _ => []

/-- The one access of a handle's `write(v)`, if it is a Memory handle. -/
def Handle.writeAccesses (v : Byte) : Handle → List Access
  | .memory addr => [.write addr v]
  | .implicit => []
  | .accumulator => []
  | .immediate _ => []

/-- An instruction that reads its operand. -/
def valueAccesses (m : Operand) (s : State) : List Access :=
  resolverAccesses m s ++ (resolve m s).readAccesses

/-- A store: the target is not read. -/
def storeAccesses (m : Operand) (v : Byte) (s : State) : List Access :=
  resolverAccesses m s ++ (resolve m s).writeAccesses v

/-- A read-modify-write: one read, then one write of the same address. -/
def modifyAccesses (m : Operand) (f : Byte → Byte) (s : State) : List Access :=
  match (resolve m s).read s with
  | .ok v => resolverAccesses m s ++ (resolve m s).readAccesses ++ (resolve m s).writeAccesses (f v)
  | .error _ => resolverAccesses m s

/-- Pushes, one write each at 0x0100 + SP, SP falling. -/
def pushAccesses (s : State) : List Byte → List Access
  | [] => []
  | v :: rest => .write (stackAddr s.sp) v :: pushAccesses (s.setSp (s.sp - 1)) rest

/-- `n` pops, one read each at 0x0100 + SP, SP rising first. -/
def popAccesses (s : State) : Nat → List Access
  | 0 => []
  | n + 1 => .read (stackAddr (s.sp + 1)) :: popAccesses (s.setSp (s.sp + 1)) n

/-- The accesses of the resolver and the operation (R59, points 2 and 3). -/
def execAccesses (c : Config) (i : Instr) (s : State) : List Access :=
  match i with
  | .lda m => valueAccesses m s
  | .ldx m => valueAccesses m s
  | .ldy m => valueAccesses m s
  | .sta m => storeAccesses m s.a s
  | .stx m => storeAccesses m s.x s
  | .sty m => storeAccesses m s.y s
  | .tax => []
  | .tay => []
  | .tsx => []
  | .txa => []
  | .tya => []
  | .txs => []
  | .adc m => valueAccesses m s
  | .sbc m => valueAccesses m s
  | .cmp m => valueAccesses m s
  | .cpx m => valueAccesses m s
  | .cpy m => valueAccesses m s
  | .and m => valueAccesses m s
  | .ora m => valueAccesses m s
  | .eor m => valueAccesses m s
  | .bit m => valueAccesses m s
  | .asl m => modifyAccesses m (fun v => (asl8 v).1) s
  | .lsr m => modifyAccesses m (fun v => (lsr8 v).1) s
  | .rol m => modifyAccesses m (fun v => (rol8 v (s.flag .c)).1) s
  | .ror m => modifyAccesses m (fun v => (ror8 v (s.flag .c)).1) s
  | .inc m => modifyAccesses m inc8 s
  | .dec m => modifyAccesses m dec8 s
  | .inx => []
  | .iny => []
  | .dex => []
  | .dey => []
  | .bcc m => resolverAccesses m s
  | .bcs m => resolverAccesses m s
  | .bne m => resolverAccesses m s
  | .beq m => resolverAccesses m s
  | .bpl m => resolverAccesses m s
  | .bmi m => resolverAccesses m s
  | .bvc m => resolverAccesses m s
  | .bvs m => resolverAccesses m s
  | .jmp m => resolverAccesses m s
  | .jsr m => resolverAccesses m s ++ pushAccesses s [highByte (s.pc - 1), lowByte (s.pc - 1)]
  | .rts => popAccesses s 2
  | .rti => popAccesses s 3
  | .pha => pushAccesses s [s.a]
  | .php => pushAccesses s [pushedStatus s.p]
  | .pla => popAccesses s 1
  | .plp => popAccesses s 1
  | .clc => []
  | .sec => []
  | .cld => []
  | .sed => []
  | .cli => []
  | .sei => []
  | .clv => []
  | .brk =>
    pushAccesses s [highByte s.pc, lowByte s.pc, pushedStatus (putFlag s.p .i true)] ++
      (if c.brkLoadsVector then [.read 0xFFFE, .read 0xFFFF] else [])
  | .nop => []
  | .null _ => []

/-- All accesses of the step from a state, in order (R59). -/
def stepAccesses (c : Config) (s : State) : List Access :=
  fetchAccesses s ++ execAccesses c s.fetchInstr (s.advancePast s.fetchInstr)

/-- A memory after the writes of a list of accesses, in order. -/
def Memory.after : Memory → List Access → Memory
  | m, [] => m
  | m, .read _ :: rest => Memory.after m rest
  | m, .write addr v :: rest => Memory.after (m.write addr.toNat v) rest

end Sys2Proof.Machine
end

