-- ==== Sys2Proof/Machine/Assembly.lean ====
section
/-! DEFINITION. The assembler spelling of an instruction and the offset byte of a branch: 30_encoding.md
R95. Syntax only, no instruction's meaning uses it (log entry 11). -/

namespace Sys2Proof.Machine

/-- The digits of a hexadecimal number. -/
def hexDigits : List Char :=
  ['0', '1', '2', '3', '4', '5', '6', '7'] ++ ['8', '9', 'A', 'B', 'C', 'D', 'E', 'F']

/-- `k` hexadecimal digits of a number, the highest first. -/
def hexChars : Nat → Nat → List Char
  | 0, _ => []
  | k + 1, n => hexChars k (n / 16) ++ [hexDigits.getD (n % 16) '0']

/-- `$nn`. -/
def hexByte (v : Byte) : String := "$" ++ String.ofList (hexChars 2 v.toNat)

/-- `$hhll`. -/
def hexAddr (a : Addr) : String := "$" ++ String.ofList (hexChars 4 a.toNat)

/-- The target a branch at an address spells (R85, R95): the address after its two bytes, plus the offset. -/
def branchTarget (at_ : Addr) (off : Byte) : Addr := at_ + 2 + sext16 off

/-- The offset byte of a branch at one address to another, if it lies in -128..127 (R95). -/
def branchOffset (at_ target : Addr) : Option Byte :=
  let off := lowByte (target - (at_ + 2))
  if branchTarget at_ off = target then some off else none

/-- An operand as R95's table spells it, for an instruction at an address. -/
def spellOperand (at_ : Addr) : Operand → String
  | .implicit => ""
  | .accumulator => " A"
  | .immediate v => " #" ++ hexByte v
  | .zeropage zp => " " ++ hexByte zp
  | .zeropageX zp => " " ++ hexByte zp ++ ",X"
  | .zeropageY zp => " " ++ hexByte zp ++ ",Y"
  | .absolute a => " " ++ hexAddr a
  | .absoluteX a => " " ++ hexAddr a ++ ",X"
  | .absoluteY a => " " ++ hexAddr a ++ ",Y"
  | .indirect a => " (" ++ hexAddr a ++ ")"
  | .indirectX zp => " (" ++ hexByte zp ++ ",X)"
  | .indirectY zp => " (" ++ hexByte zp ++ "),Y"
  | .relative off => " " ++ hexAddr (branchTarget at_ off)

/-- The mnemonics of the 56 operations (R96: there is no other). -/
def mnemonicOf : Operation → String
  | .lda => "LDA"
  | .ldx => "LDX"
  | .ldy => "LDY"
  | .sta => "STA"
  | .stx => "STX"
  | .sty => "STY"
  | .tax => "TAX"
  | .tay => "TAY"
  | .tsx => "TSX"
  | .txa => "TXA"
  | .tya => "TYA"
  | .txs => "TXS"
  | .adc => "ADC"
  | .sbc => "SBC"
  | .cmp => "CMP"
  | .cpx => "CPX"
  | .cpy => "CPY"
  | .and => "AND"
  | .ora => "ORA"
  | .eor => "EOR"
  | .bit => "BIT"
  | .asl => "ASL"
  | .lsr => "LSR"
  | .rol => "ROL"
  | .ror => "ROR"
  | .inc => "INC"
  | .dec => "DEC"
  | .inx => "INX"
  | .iny => "INY"
  | .dex => "DEX"
  | .dey => "DEY"
  | .bcc => "BCC"
  | .bcs => "BCS"
  | .bne => "BNE"
  | .beq => "BEQ"
  | .bpl => "BPL"
  | .bmi => "BMI"
  | .bvc => "BVC"
  | .bvs => "BVS"
  | .jmp => "JMP"
  | .jsr => "JSR"
  | .rts => "RTS"
  | .rti => "RTI"
  | .pha => "PHA"
  | .php => "PHP"
  | .pla => "PLA"
  | .plp => "PLP"
  | .clc => "CLC"
  | .sec => "SEC"
  | .cld => "CLD"
  | .sed => "SED"
  | .cli => "CLI"
  | .sei => "SEI"
  | .clv => "CLV"
  | .brk => "BRK"
  | .nop => "NOP"

/-- An instruction at an address as R95 spells it; a null entry has no spelling. -/
def assemblyOf (at_ : Addr) (i : Instr) : Option String :=
  match i.parts with
  | .inl _ => none
  | .inr (o, m) => some (mnemonicOf o ++ spellOperand at_ m)

end Sys2Proof.Machine
end

