-- ==== Sys2Proof/Safety.lean ====
section
/-! DEFINITION. What counts as a safe state and a safe run, in the terms claims use. -/

namespace Sys2Proof.Machine

/-- The launch premises P.U = 1 and P.B = 0 (10_state.md R21, R22, D23). -/
abbrev State.LaunchPremises (s : State) : Prop := s.flag .u = true ∧ s.flag .b = false

/-- The invariant of the block: memory in its canonical form, and the launch premises. -/
abbrev State.Inv (s : State) : Prop := s.mem.wf = true ∧ s.LaunchPremises

/-- A step that answers a next state: no InternalError, no refusal (60_exceptions.md R230, R232). -/
def StepSafe (c : Config) (s : State) : Prop := ∃ t, stepWith c s = .next t

/-- States reached by steps under parameters `c`, halts included (R231: a halt is not sticky). -/
inductive Reaches (c : Config) : State → State → Prop where
  | refl (s : State) : Reaches c s s
  | step {s t u : State} : Reaches c s t → stepWith c t = .next u → Reaches c s u

/-- A safe run: every state it reaches can step. -/
def RunSafe (c : Config) (s : State) : Prop := ∀ t, Reaches c s t → StepSafe c t

end Sys2Proof.Machine
end

