-- ==== Sys2Proof/Certificates/Slice0/Obligations.lean ====
section
/-! DEFINITION. The statements about the model, for the provers, and the few words they are written in.
D<n> in a docstring is a decision of the spec (log entry 3). Which modes an operation has, and so which
forms are well-formed, is the standard map's where the source does not list them (log entry 4). -/

namespace Sys2Proof.Claims

open Sys2Proof.Machine

/-- The four 8-bit registers besides P (10_state.md R10). -/
inductive Reg where
  | a | x | y | sp
  deriving DecidableEq, Repr

def Reg.get : Reg → State → Byte
  | .a, s => s.a
  | .x, s => s.x
  | .y, s => s.y
  | .sp, s => s.sp

/-- The frame: every register, flag and byte of memory but the listed ones is unchanged. It does not
speak of PC. -/
def OnlyChanges (rs : List Reg) (fs : List Flag) (addrs : List Addr) (s t : State) : Prop :=
  (∀ r, r ∉ rs → r.get t = r.get s) ∧ (∀ f, f ∉ fs → t.flag f = s.flag f) ∧
    ∀ b, b ∉ addrs → t.memRead b = s.memRead b

/-- The instruction completes: `exec` answers the next state `t`, and the step returns true. -/
def Completes (i : Instr) (s t : State) : Prop := exec i s = .next t ∧ t.ok = true

/-- Z and N as SetNZ of `v` leaves them (40_alu.md R110). -/
def NZFrom (v : Byte) (t : State) : Prop :=
  t.flag .z = decide (v.toNat = 0) ∧ t.flag .n = decide (128 ≤ v.toNat)

/-- The address 0x0100 + SP (20_memory.md R48). -/
def slot (sp : Byte) : Addr := BitVec.ofNat 16 (256 + sp.toNat)

/-- The byte at a number taken modulo 65536. -/
def byteAt (s : State) (n : Nat) : Nat := (s.memRead (BitVec.ofNat 16 n)).toNat

/-- The resolver run with PC just past the opcode byte (30_encoding.md R75): the handle, and PC after it. -/
def resolveAt (md : Mode) (s : State) : Handle × Addr :=
  let pc' := s.pc + BitVec.ofNat 16 (md.length - 1)
  (resolve (md.withBytes (s.memRead s.pc) (s.memRead (s.pc + 1))) (s.setPc pc'), pc')

/-- The resolver answers a Memory handle of this address and moves PC by `k` bytes. -/
def ResolvesTo (md : Mode) (s : State) (addr k : Nat) : Prop :=
  ∃ ea : Addr, resolveAt md s = (.memory ea, s.pc + BitVec.ofNat 16 k) ∧ ea.toNat = addr

/-- A signed 8-bit value lies outside -128..127. -/
def outOfRange (z : Int) : Bool := decide (z < -128 ∨ 127 < z)

/-- The writers of A (10_state.md R11). -/
def writesA : Instr → Bool
  | .lda _ | .adc _ | .sbc _ | .and _ | .ora _ | .eor _ | .txa | .tya | .pla => true
  | .asl m | .lsr m | .rol m | .ror m => decide (m = .accumulator)
  | _ => false

/-- The writers of X (R12). -/
def writesX : Instr → Bool
  | .ldx _ | .tax | .tsx | .inx | .dex => true
  | _ => false

/-- The writers of Y (R13). -/
def writesY : Instr → Bool
  | .ldy _ | .tay | .iny | .dey => true
  | _ => false

/-- The writers of SP (R14). -/
def writesSp : Instr → Bool
  | .pha | .php | .pla | .plp | .jsr _ | .rts | .rti | .brk | .txs => true
  | _ => false

/-- The control transfers, which may replace PC (R15); BRK does not under the parameters of `exec`. -/
def transfersControl : Instr → Bool
  | .jmp _ | .jsr _ | .rts | .rti => true
  | .bcc _ | .bcs _ | .bne _ | .beq _ | .bpl _ | .bmi _ | .bvc _ | .bvs _ => true
  | _ => false

/-- The instructions whose rule writes SetNZ (R18). -/
def writesNZ : Instr → Bool
  | .lda _ | .ldx _ | .ldy _ | .tax | .tay | .tsx | .txa | .tya | .adc _ | .sbc _ | .and _ | .ora _
  | .eor _ | .asl _ | .lsr _ | .rol _ | .ror _ | .inc _ | .dec _ | .inx | .iny | .dex | .dey | .pla => true
  | _ => false

/-- The writers of each flag (R17 to R24). -/
def writesFlag : Flag → Instr → Bool
  | _, .plp | _, .rti => true
  | .c, .adc _ | .c, .sbc _ | .c, .cmp _ | .c, .cpx _ | .c, .cpy _ | .c, .asl _ | .c, .rol _ | .c, .lsr _
  | .c, .ror _ | .c, .clc | .c, .sec => true
  | .i, .sei | .i, .cli | .i, .brk => true
  | .d, .sed | .d, .cld => true
  | .v, .adc _ | .v, .sbc _ | .v, .bit _ | .v, .clv => true
  | .z, .cmp _ | .z, .cpx _ | .z, .cpy _ | .z, .bit _ => true
  | .n, .cmp _ | .n, .cpx _ | .n, .cpy _ | .n, .bit _ => true
  | .z, i | .n, i => writesNZ i
  | _, _ => false

/-- The instructions that write memory (20_memory.md R59). -/
def writesMemory : Instr → Bool
  | .sta _ | .stx _ | .sty _ | .inc _ | .dec _ | .jsr _ | .pha | .php | .brk => true
  | .asl m | .lsr m | .rol m | .ror m => decide (m ≠ .accumulator)
  | _ => false

/-- The results of the shifter's four functions as numbers (40_alu.md R115): the result and the carry out. -/
def shiftRule : (Operand → Instr) → Nat → Nat → Nat × Bool → Prop := fun mk v c out =>
  (mk = Instr.asl ∧ out = (2 * v % 256, decide (128 ≤ v))) ∨
  (mk = Instr.lsr ∧ out = (v / 2, decide (v % 2 = 1))) ∨
  (mk = Instr.rol ∧ out = (2 * v % 256 + c, decide (128 ≤ v))) ∨
  (mk = Instr.ror ∧ out = (v / 2 + 128 * c, decide (v % 2 = 1)))

/-- PC after a step that started at `a` (30_encoding.md R94), `s` being the state at the start. -/
def pcAfter (c : Config) (s : State) : Addr :=
  let i := s.fetchInstr
  let next := s.pc + BitVec.ofNat 16 i.length
  let branch (taken : Bool) (m : Operand) : Addr :=
    match m with
    | .relative off => if taken then BitVec.ofInt 16 (s.pc.toNat + 2 + off.toInt) else next
    | _ => next
  match i with
  | .jmp (.absolute a) => a
  | .jmp (.indirect a) =>
    BitVec.ofNat 16 (byteAt s a.toNat + 256 * byteAt s (a.toNat / 256 * 256 + (a.toNat + 1) % 256))
  | .jsr (.absolute a) => a
  | .rts =>
    BitVec.ofNat 16 ((s.memRead (slot (s.sp + 1))).toNat + 256 * (s.memRead (slot (s.sp + 2))).toNat + 1)
  | .rti =>
    BitVec.ofNat 16 ((s.memRead (slot (s.sp + 2))).toNat + 256 * (s.memRead (slot (s.sp + 3))).toNat)
  | .bcc m => branch (!s.flag .c) m
  | .bcs m => branch (s.flag .c) m
  | .bne m => branch (!s.flag .z) m
  | .beq m => branch (s.flag .z) m
  | .bpl m => branch (!s.flag .n) m
  | .bmi m => branch (s.flag .n) m
  | .bvc m => branch (!s.flag .v) m
  | .bvs m => branch (s.flag .v) m
  | .brk => if c.brkLoadsVector then BitVec.ofNat 16 (byteAt s 0xFFFE + 256 * byteAt s 0xFFFF) else next
  | _ => next

/-- The state `n` steps later, if each step answers a next state. -/
def afterSteps (c : Config) : Nat → State → Option State
  | 0, s => some s
  | n + 1, s =>
    match stepWith c s with
    | .next t => afterSteps c n t
    | .fault _ => none
    | .refused _ => none

/-- The boundary `n` steps after the launch state `s` is `t`, and an ending of 70_reset_and_hazards.md R262
applies there: the last step returned false, or the host stops before an opcode byte 0x00. At the launch
boundary no step has returned (log entry 10). -/
def EndsAt (c : Config) (s : State) (n : Nat) (t : State) : Prop :=
  afterSteps c n s = some t ∧
    (0 < n ∧ t.ok = false ∨ c.hostStopAtBrk = true ∧ t.memRead t.pc = 0x00)

/-- Two states with the same registers, the output bit apart. -/
def SameRegisters (s s' : State) : Prop := (∀ r : Reg, r.get s' = r.get s) ∧ s'.pc = s.pc ∧ s'.p = s.p

end Sys2Proof.Claims

open Sys2Proof Sys2Proof.Machine Sys2Proof.Claims

/-! ### Memory and the stack -/

/-- 20_memory.md R42: a write sets its own cell and changes nothing else. -/
def Obligations.WriteSetsOneCellOnly : Prop :=
  ∀ (s : State) (addr : Addr) (v : Byte),
    (s.memWrite addr v).memRead addr = v ∧ OnlyChanges [] [] [addr] s (s.memWrite addr v) ∧
      (s.memWrite addr v).pc = s.pc ∧ (s.memWrite addr v).ok = s.ok

/-- 10_state.md R26: the canonical list stands for the array. A write keeps the form (log entry 6), and two
memories in it that read alike are the same data. -/
def Obligations.MemoryFormIsCanonical : Prop :=
  (∀ (m : Memory) (a : Nat) (v : Byte), m.wf = true → a < 65536 → (m.write a v).wf = true) ∧
    ∀ m m' : Memory, m.wf = true → m'.wf = true → (∀ a, a < 65536 → m.read a = m'.read a) → m = m'

/-- 20_memory.md R50, R51: Push writes at 0x0100 + SP and lowers SP, Pop raises SP and reads there, both
modulo 256, and nothing else changes. -/
def Obligations.PushAndPopFollowTheStackRules : Prop :=
  ∀ (s : State) (v : Byte),
    ((s.push v).memRead (slot s.sp) = v ∧ (s.push v).sp.toNat = (s.sp.toNat + 255) % 256 ∧
      OnlyChanges [.sp] [] [slot s.sp] s (s.push v) ∧ (s.push v).pc = s.pc) ∧
    (s.pop.1 = s.memRead (BitVec.ofNat 16 (256 + (s.sp.toNat + 1) % 256)) ∧
      s.pop.2.sp.toNat = (s.sp.toNat + 1) % 256 ∧ OnlyChanges [.sp] [] [] s s.pop.2 ∧ s.pop.2.pc = s.pc)

/-- 20_memory.md R52, R53 with R44: a 16-bit push puts the high byte in the slot and the low byte one
below, each slot wrapping (D18), and a 16-bit pop gives the value back and restores SP. -/
def Obligations.Push16ThenPop16GivesTheValueBack : Prop :=
  ∀ (s : State) (w : Addr),
    (s.push16 w).memRead (slot s.sp) = highByte w ∧ (s.push16 w).memRead (slot (s.sp - 1)) = lowByte w ∧
      OnlyChanges [.sp] [] [slot s.sp, slot (s.sp - 1)] s (s.push16 w) ∧ (s.push16 w).pc = s.pc ∧
      (s.push16 w).pop16.1 = w ∧ (s.push16 w).pop16.2.sp = s.sp

/-! ### The ALU -/

/-- 40_alu.md R110: SetNZ writes exactly Z and N. -/
def Obligations.SetNZWritesTwoFlags : Prop :=
  ∀ (s : State) (v : Byte),
    NZFrom v (s.setNZ v) ∧ OnlyChanges [] [.z, .n] [] s (s.setNZ v) ∧ (s.setNZ v).pc = s.pc ∧
      (s.setNZ v).mem = s.mem

/-- 40_alu.md R111: the adder's result, carry and overflow, and that its overflow is that of the signed sum. -/
def Obligations.AdderGivesSumCarryOverflow : Prop :=
  ∀ (a b : Byte) (cin : Bool),
    (add8 a b cin).r.toNat = (a.toNat + b.toNat + cin.toNat) % 256 ∧
    (add8 a b cin).c = decide (256 ≤ a.toNat + b.toNat + cin.toNat) ∧
    (add8 a b cin).v = (decide (bit7 a = bit7 b) && decide (bit7 (add8 a b cin).r ≠ bit7 a)) ∧
    (add8 a b cin).v = outOfRange (a.toInt + b.toInt + cin.toNat)

/-- 40_alu.md R113: Compare writes C, Z and N from the register and the operand, and nothing else. -/
def Obligations.CompareWritesThreeFlags : Prop :=
  ∀ (s : State) (r m : Byte),
    (s.compare r m).flag .c = decide (m.toNat ≤ r.toNat) ∧
    (s.compare r m).flag .z = decide (r.toNat = m.toNat) ∧
    (s.compare r m).flag .n = decide (128 ≤ (r.toNat + 256 - m.toNat) % 256) ∧
    OnlyChanges [] [.c, .z, .n] [] s (s.compare r m) ∧ (s.compare r m).pc = s.pc

/-- 40_alu.md R115: results and carries of the shifter's four functions. -/
def Obligations.ShifterFollowsItsTable : Prop :=
  ∀ (v : Byte) (cin : Bool),
    ((asl8 v).1.toNat = 2 * v.toNat % 256 ∧ (asl8 v).2 = v.getLsbD 7) ∧
    ((lsr8 v).1.toNat = v.toNat / 2 ∧ (lsr8 v).2 = v.getLsbD 0) ∧
    ((rol8 v cin).1.toNat = 2 * v.toNat % 256 + cin.toNat ∧ (rol8 v cin).2 = v.getLsbD 7) ∧
    ((ror8 v cin).1.toNat = v.toNat / 2 + 128 * cin.toNat ∧ (ror8 v cin).2 = v.getLsbD 0)

/-! ### The resolver and the handle -/

/-- 30_encoding.md R78 to R81, R86, R87, R83: seven modes' handles, with PC moved past their bytes. -/
def Obligations.ResolverComputesTheEffectiveAddress : Prop :=
  ∀ s : State,
    let b1 := byteAt s s.pc.toNat
    let word := b1 + 256 * byteAt s (s.pc.toNat + 1)
    let p := (b1 + s.x.toNat) % 256
    resolveAt .immediate s = (.immediate (BitVec.ofNat 8 b1), s.pc + 1) ∧
    ResolvesTo .absolute s word 2 ∧
    ResolvesTo .absoluteX s ((word + s.x.toNat) % 65536) 2 ∧
    ResolvesTo .absoluteY s ((word + s.y.toNat) % 65536) 2 ∧
    ResolvesTo .zeropage s b1 1 ∧
    ResolvesTo .zeropageX s p 1 ∧
    ResolvesTo .indirectX s (byteAt s p + 256 * byteAt s ((p + 1) % 256)) 1

/-- 30_encoding.md R76, R77, R84, R85, R88: the other modes but Indirect. Their lists of instructions
(standard map, log entry 4), the modulus of R84 (D4) and the unread target of R85 (D5) are the spec's own. -/
def Obligations.ResolverComputesTheRemainingModes : Prop :=
  ∀ s : State,
    let b1 := byteAt s s.pc.toNat
    resolveAt .implicit s = (.implicit, s.pc) ∧
    resolveAt .accumulator s = (.accumulator, s.pc) ∧
    ResolvesTo .indirectY s ((byteAt s b1 + 256 * byteAt s ((b1 + 1) % 256) + s.y.toNat) % 65536) 1 ∧
    (∃ ea : Addr, resolveAt .relative s = (.memory ea, s.pc + 1) ∧
      (ea.toNat : Int) = ((s.pc.toNat : Int) + 1 + (s.memRead s.pc).toInt) % 65536) ∧
    ResolvesTo .zeropageY s ((b1 + s.y.toNat) % 256) 1

/-- 30_encoding.md R82: the pointer of Indirect, its high byte read inside the page of its low byte; only
opcode 0x6C, JMP, has the mode. -/
def Obligations.IndirectReadsItsPointerInsideOnePage : Prop :=
  (∀ s : State,
    let a := byteAt s s.pc.toNat + 256 * byteAt s (s.pc.toNat + 1)
    let hiAddr := if a % 256 = 255 then a - 255 else a + 1
    ResolvesTo .indirect s (byteAt s a + 256 * byteAt s hiAddr) 2) ∧
  ∀ (op : Byte) (o : Operation), decodeEntry op = some (o, .indirect) ↔ op = 0x6C ∧ o = .jmp

/-- 30_encoding.md R89 to R91 (the third case of R91 is decision D10): the handle's operations by variant;
each misuse raises InternalError and nothing else does. -/
def Obligations.HandleOperationsByVariant : Prop :=
  ∀ (h : Handle) (v : Byte) (s : State),
    (h.read s = match h with
      | .accumulator => .ok s.a
      | .memory addr => .ok (s.memRead addr)
      | .immediate w => .ok w
      | .implicit => .error .readOfImplicit) ∧
    (∀ t, h.write v s = .ok t → t.p = s.p ∧ t.pc = s.pc ∧ t.sp = s.sp) ∧
    (h = .accumulator → ∃ t, h.write v s = .ok t ∧ t.a = v ∧ OnlyChanges [.a] [] [] s t) ∧
    (∀ addr, h = .memory addr → ∃ t, h.write v s = .ok t ∧ t.memRead addr = v ∧ OnlyChanges [] [] [addr] s t) ∧
    (h.write v s = .error .writeToNonWritable ↔ h = .implicit ∨ ∃ w, h = .immediate w) ∧
    (∀ addr, h.target = .ok addr ↔ h = .memory addr) ∧
    (h.target = .error .targetOfNonMemory ↔ ∀ addr, h ≠ .memory addr)

/-! ### Encoding -/

/-- Decoding an encoded well-formed instruction gives it back, and the bytes after it (R71 of
30_encoding.md; the opcodes of the standard map are log entry 4). -/
def Obligations.DecodeOfEncodeIsTheInstruction : Prop :=
  ∀ (i : Instr) (rest : List Byte), i.wf = true → decode (encode i ++ rest) = .ok (i, rest)

/-- What the decoder accepts is well-formed, and encodes to the very bytes read: no two words mean the
same and no bit is dropped. -/
def Obligations.EncodeOfDecodeIsTheBytes : Prop :=
  ∀ (bytes : List Byte) (i : Instr) (rest : List Byte),
    decode bytes = .ok (i, rest) → i.wf = true ∧ encode i ++ rest = bytes

/-- The ten rows the source lists (95_test_vectors.md section 1.4), written out byte by byte. -/
def Obligations.ListedWordsDecode : Prop :=
  decode [0x00] = .ok (.brk, []) ∧ decode [0x01, 0x20] = .ok (.ora (.indirectX 0x20), []) ∧
  decode [0x05, 0x20] = .ok (.ora (.zeropage 0x20), []) ∧ decode [0x0A] = .ok (.asl .accumulator, []) ∧
  decode [0x20, 0x00, 0x07] = .ok (.jsr (.absolute 0x0700), []) ∧
  decode [0x4C, 0x00, 0x07] = .ok (.jmp (.absolute 0x0700), []) ∧
  decode [0x6C, 0xFF, 0x10] = .ok (.jmp (.indirect 0x10FF), []) ∧
  decode [0x69, 0x01] = .ok (.adc (.immediate 0x01), []) ∧
  decode [0xA9, 0x05] = .ok (.lda (.immediate 0x05), []) ∧ decode [0xEA] = .ok (.nop, [])

/-- 30_encoding.md R70, R71: the opcode byte alone fixes operation, mode and length, and a byte beyond the
length does not matter. -/
def Obligations.OpcodeByteAloneSelectsOperationAndMode : Prop :=
  ∀ op b1 b2 c1 c2 : Byte,
    ((decodeBytes op b1 b2).parts.map id Prod.fst = (decodeBytes op c1 c2).parts.map id Prod.fst ∧
      (decodeBytes op b1 b2).operand.mode = (decodeBytes op c1 c2).operand.mode ∧
      (decodeBytes op b1 b2).length = (decodeBytes op c1 c2).length) ∧
    ((decodeBytes op b1 b2).length ≤ 2 → decodeBytes op b1 b2 = decodeBytes op b1 c2) ∧
    ((decodeBytes op b1 b2).length = 1 → decodeBytes op b1 b2 = decodeBytes op c1 c2)

/-- 30_encoding.md R74 (the membership is the standard map's, log entry 4): the null entries are exactly
the listed 105 bytes, and each decodes to the null instruction of its byte. -/
def Obligations.NullEntriesAreTheListedBytes : Prop :=
  nullOpcodes.length = 105 ∧
    ∀ op b1 b2 : Byte, (decodeBytes op b1 b2 = .null op ↔ op.toNat ∈ nullOpcodes)

/-! ### The step -/

/-- 30_encoding.md R92 under the parameters' values (D2): when the bytes at PC decode to `i`, the step is
`exec i` at the state with PC past `i`'s bytes; and the step with the parameters as an argument is the
step at the spec's values. -/
def Obligations.StepRunsTheDecodedInstruction : Prop :=
  (∀ (s : State) (i : Instr) (rest : List Byte),
    decode [s.memRead s.pc, s.memRead (s.pc + 1), s.memRead (s.pc + 2)] = .ok (i, rest) →
      step s = exec i (s.setPc (s.pc + BitVec.ofNat 16 i.length))) ∧
  ∀ s : State, stepWith Config.specValues s = step s

/-- 20_memory.md R58: bytes stored at PC are what the next fetch decodes. -/
def Obligations.StoredBytesAreFetched : Prop :=
  ∀ (s : State) (b0 b1 b2 : Byte),
    (s.placeAtPc b0 b1 b2).fetchInstr = decodeBytes b0 b1 b2 ∧
      step (s.placeAtPc b0 b1 b2) =
        exec (decodeBytes b0 b1 b2) ((s.placeAtPc b0 b1 b2).advancePast (decodeBytes b0 b1 b2))

/-- 60_exceptions.md R230 to R232, 30_encoding.md R91: from every state, under every parameters, every step of
every run answers a next state. InternalError is unreachable from any program. -/
def Obligations.EveryRunIsSafe : Prop := ∀ (c : Config) (s : State), RunSafe c s

/-- 60_exceptions.md R239, R230: every well-formed instruction completes in every state; the step returns
true but for a null entry. That BRK returns true is BRK_HALTS = false, the value `exec` runs at (D2, log
entry 2). -/
def Obligations.EveryWellFormedInstructionCompletes : Prop :=
  ∀ (i : Instr) (s : State), i.wf = true →
    ∃ t, exec i s = .next t ∧ (t.ok = false ↔ ∃ op, i = .null op)

/-- 60_exceptions.md R232 with 30_encoding.md R89 to R91 (target: D10): which ill-formed forms raise which
InternalError, in every state, and that no well-formed instruction raises one. -/
def Obligations.MisusedHandlesRaiseInternalError : Prop :=
  (∀ mk ∈ [Instr.lda, Instr.ldx, Instr.ldy, Instr.adc, Instr.sbc, Instr.cmp, Instr.cpx, Instr.cpy, Instr.and,
      Instr.ora, Instr.eor, Instr.bit, Instr.asl, Instr.lsr, Instr.rol, Instr.ror, Instr.inc, Instr.dec],
    ∀ s : State, exec (mk .implicit) s = .fault .readOfImplicit) ∧
  (∀ mk ∈ [Instr.sta, Instr.stx, Instr.sty],
    ∀ (s : State) (v : Byte), exec (mk .implicit) s = .fault .writeToNonWritable ∧
      exec (mk (.immediate v)) s = .fault .writeToNonWritable) ∧
  (∀ mk ∈ [Instr.asl, Instr.lsr, Instr.rol, Instr.ror, Instr.inc, Instr.dec],
    ∀ (s : State) (v : Byte), exec (mk (.immediate v)) s = .fault .writeToNonWritable) ∧
  (∀ mk ∈ [Instr.jmp, Instr.jsr],
    ∀ (m : Operand) (s : State), (∀ addr, resolve m s ≠ .memory addr) →
      exec (mk m) s = .fault .targetOfNonMemory) ∧
  (∀ (mk : Operand → Instr) (f : Flag) (on : Bool),
    (mk, f, on) ∈ [(Instr.bcc, Flag.c, false), (Instr.bcs, Flag.c, true), (Instr.bne, Flag.z, false),
      (Instr.beq, Flag.z, true), (Instr.bpl, Flag.n, false), (Instr.bmi, Flag.n, true),
      (Instr.bvc, Flag.v, false), (Instr.bvs, Flag.v, true)] →
    ∀ (m : Operand) (s : State), (∀ addr, resolve m s ≠ .memory addr) → s.flag f = on →
      exec (mk m) s = .fault .targetOfNonMemory) ∧
  ∀ (i : Instr) (s : State) (f : Fault), exec i s = .fault f → i.wf = false

/-- 60_exceptions.md R230, R231, 10_state.md R28: a step returns false exactly at a null entry, or at BRK
under BRK_HALTS, and its code says which (the codes are names of decision D21). -/
def Obligations.StepReturnsFalseOnlyAtHalts : Prop :=
  ∀ (c : Config) (s : State), ∃ t, stepWith c s = .next t ∧
    (t.ok = false ↔ decodeEntry (s.memRead s.pc) = none ∨ s.memRead s.pc = 0x00 ∧ c.brkHalts = true) ∧
    (stepCode c s = .haltUndoc ↔ decodeEntry (s.memRead s.pc) = none) ∧
    (stepCode c s = .haltBrk ↔ s.memRead s.pc = 0x00 ∧ c.brkHalts = true) ∧
    (stepCode c s = .ok ↔ t.ok = true)

/-- 30_encoding.md R94: PC after a step, by instruction. -/
def Obligations.PcAfterAStep : Prop :=
  ∀ (c : Config) (s t : State), stepWith c s = .next t → t.pc = pcAfter c s

/-! ### Whole-machine rules -/

/-- 10_state.md R21, R22, R30: the invariant holds after reset. -/
def Obligations.InvariantHoldsAtReset : Prop := State.reset.Inv

/-- 10_state.md R21, R22, 70_reset_and_hazards.md R255: every step keeps the invariant: memory canonical, P.U = 1,
P.B = 0. -/
def Obligations.EveryStepKeepsTheInvariant : Prop :=
  ∀ (c : Config) (s t : State), s.Inv → stepWith c s = .next t → t.Inv

/-- 10_state.md R21, R22: from any state with P.U = 1 a step leaves P.U = 1, and from any state with P.B = 0
no step makes P.B = 1, each without the other. -/
def Obligations.UnusedAndBreakBitsAreKeptApart : Prop :=
  ∀ (c : Config) (s t : State), stepWith c s = .next t →
    (s.flag .u = true → t.flag .u = true) ∧ (s.flag .b = false → t.flag .b = false)

/-- 10_state.md R11 to R24 and 20_memory.md R59: no instruction writes a register, a flag or memory that the
rules do not list it as a writer of, and only a control transfer replaces PC. That BRK leaves PC alone is
BRK_LOADS_VECTOR = false, the value `exec` runs at (D3, log entry 2): R15 lists BRK as a writer of PC under
the other. -/
def Obligations.OnlyListedInstructionsWrite : Prop :=
  ∀ (i : Instr) (s t : State), i.wf = true → exec i s = .next t →
    (writesA i = false → t.a = s.a) ∧ (writesX i = false → t.x = s.x) ∧ (writesY i = false → t.y = s.y) ∧
    (writesSp i = false → t.sp = s.sp) ∧ (∀ f, writesFlag f i = false → t.flag f = s.flag f) ∧
    (writesMemory i = false → t.mem = s.mem) ∧ (transfersControl i = false → t.pc = s.pc)

/-- 10_state.md R19, R20, 60_exceptions.md R234, 40_alu.md R117: I and D change nothing but themselves and the
copies of P that PHP and BRK push. `exec` runs BRK at the spec's values of the parameters (log entry 2). -/
def Obligations.InterruptAndDecimalFlagsAreInert : Prop :=
  ∀ (f : Flag) (i : Instr) (s t : State) (on : Bool), f = .i ∨ f = .d → exec i s = .next t →
    ∃ u, exec i (s.setFlag f on) = .next u ∧ (∀ r : Reg, r.get u = r.get t) ∧ u.pc = t.pc ∧ u.ok = t.ok ∧
      (∀ g, g ≠ f → u.flag g = t.flag g) ∧ (i ≠ .php → i ≠ .brk → u.mem = t.mem) ∧
      (i = .php → ∀ b, b ≠ slot s.sp → u.memRead b = t.memRead b) ∧
      (i = .brk → ∀ b, b ≠ slot (s.sp - 2) → u.memRead b = t.memRead b)

/-! ### Loads, stores and transfers -/

/-- 41_load_store.md R130 to R132: LDA, LDX, LDY. -/
def Obligations.LoadsWriteTheRegisterAndNZ : Prop :=
  ∀ (mk : Operand → Instr) (dst : Reg), (mk, dst) ∈ [(Instr.lda, Reg.a), (Instr.ldx, Reg.x), (Instr.ldy, Reg.y)] →
    ∀ (m : Operand) (s : State), (mk m).wf = true →
      ∃ v t, (resolve m s).read s = .ok v ∧ Completes (mk m) s t ∧ dst.get t = v ∧ NZFrom v t ∧
        OnlyChanges [dst] [.z, .n] [] s t ∧ t.pc = s.pc

/-- 41_load_store.md R133 to R135: STA, STX, STY. -/
def Obligations.StoresWriteOneByteAndNoFlag : Prop :=
  ∀ (mk : Operand → Instr) (src : Reg), (mk, src) ∈ [(Instr.sta, Reg.a), (Instr.stx, Reg.x), (Instr.sty, Reg.y)] →
    ∀ (m : Operand) (s : State), (mk m).wf = true →
      (∃ addr, resolve m s = .memory addr) ∧
      ∀ addr, resolve m s = .memory addr →
        ∃ t, Completes (mk m) s t ∧ t.memRead addr = src.get s ∧ OnlyChanges [] [] [addr] s t ∧ t.pc = s.pc

/-- 42_transfers.md R140 to R145: the six transfers; TXS sets no flag. -/
def Obligations.TransfersCopyARegister : Prop :=
  ∀ s : State,
    (∀ (i : Instr) (src dst : Reg), (i, src, dst) ∈ [(Instr.tax, Reg.a, Reg.x), (Instr.tay, Reg.a, Reg.y),
        (Instr.tsx, Reg.sp, Reg.x), (Instr.txa, Reg.x, Reg.a), (Instr.tya, Reg.y, Reg.a)] →
      ∃ t, Completes i s t ∧ dst.get t = src.get s ∧ NZFrom (src.get s) t ∧
        OnlyChanges [dst] [.z, .n] [] s t ∧ t.pc = s.pc) ∧
    ∃ t, Completes .txs s t ∧ t.sp = s.x ∧ OnlyChanges [.sp] [] [] s t ∧ t.pc = s.pc

/-! ### Arithmetic, compares, logic -/

/-- 43_arithmetic_compare.md R150: ADC adds the operand and C, whatever D holds. -/
def Obligations.AdcAddsOperandAndCarry : Prop :=
  ∀ (m : Operand) (s : State), (Instr.adc m).wf = true →
    ∃ v t, (resolve m s).read s = .ok v ∧ Completes (.adc m) s t ∧
      t.a.toNat = (s.a.toNat + v.toNat + (s.flag .c).toNat) % 256 ∧
      t.flag .c = decide (256 ≤ s.a.toNat + v.toNat + (s.flag .c).toNat) ∧
      t.flag .v = outOfRange (s.a.toInt + v.toInt + (s.flag .c).toNat) ∧ NZFrom t.a t ∧
      OnlyChanges [.a] [.c, .v, .z, .n] [] s t ∧ t.pc = s.pc

/-- 43_arithmetic_compare.md R151: SBC subtracts the operand and the borrow, C = 1 meaning no borrow. -/
def Obligations.SbcSubtractsOperandAndBorrow : Prop :=
  ∀ (m : Operand) (s : State), (Instr.sbc m).wf = true →
    ∃ v t, (resolve m s).read s = .ok v ∧ Completes (.sbc m) s t ∧
      (t.a.toNat : Int) = ((s.a.toNat : Int) - v.toNat - (1 - (s.flag .c).toNat)) % 256 ∧
      t.flag .c = decide (0 ≤ (s.a.toNat : Int) - v.toNat - (1 - (s.flag .c).toNat)) ∧
      t.flag .v = outOfRange (s.a.toInt - v.toInt - (1 - (s.flag .c).toNat)) ∧ NZFrom t.a t ∧
      OnlyChanges [.a] [.c, .v, .z, .n] [] s t ∧ t.pc = s.pc

/-- 43_arithmetic_compare.md R152 to R154: CMP, CPX, CPY; V and the register are unchanged. -/
def Obligations.ComparesSetThreeFlags : Prop :=
  ∀ (mk : Operand → Instr) (src : Reg), (mk, src) ∈ [(Instr.cmp, Reg.a), (Instr.cpx, Reg.x), (Instr.cpy, Reg.y)] →
    ∀ (m : Operand) (s : State), (mk m).wf = true →
      ∃ v t, (resolve m s).read s = .ok v ∧ Completes (mk m) s t ∧
        t.flag .c = decide (v.toNat ≤ (src.get s).toNat) ∧ t.flag .z = decide (src.get s = v) ∧
        t.flag .n = decide (128 ≤ ((src.get s).toNat + 256 - v.toNat) % 256) ∧
        OnlyChanges [] [.c, .z, .n] [] s t ∧ t.pc = s.pc

/-- 44_logical.md R160 to R162: AND, ORA, EOR, bit by bit. -/
def Obligations.LogicCombinesBitByBit : Prop :=
  ∀ (mk : Operand → Instr) (f : Bool → Bool → Bool),
    (mk = Instr.and ∧ f = (fun p q => p && q)) ∨ (mk = Instr.ora ∧ f = (fun p q => p || q)) ∨
      (mk = Instr.eor ∧ f = (fun p q => p ^^ q)) →
    ∀ (m : Operand) (s : State), (mk m).wf = true →
      ∃ v t, (resolve m s).read s = .ok v ∧ Completes (mk m) s t ∧
        (∀ k, k < 8 → t.a.getLsbD k = f (s.a.getLsbD k) (v.getLsbD k)) ∧ NZFrom t.a t ∧
        OnlyChanges [.a] [.z, .n] [] s t ∧ t.pc = s.pc

/-- 44_logical.md R163: BIT takes Z from A and the operand, N and V from the operand alone. -/
def Obligations.BitTestsWithoutWritingA : Prop :=
  ∀ (m : Operand) (s : State), (Instr.bit m).wf = true →
    ∃ v t, (resolve m s).read s = .ok v ∧ Completes (.bit m) s t ∧
      (t.flag .z = true ↔ ∀ k, k < 8 → (s.a.getLsbD k && v.getLsbD k) = false) ∧
      t.flag .n = v.getLsbD 7 ∧ t.flag .v = v.getLsbD 6 ∧
      OnlyChanges [] [.z, .n, .v] [] s t ∧ t.pc = s.pc

/-! ### Shifts, increments -/

/-- 45_shift_rotate.md R170 to R173: ASL, LSR, ROL, ROR on A and on memory; the carry in is the old C. -/
def Obligations.ShiftsMoveOneBitThroughCarry : Prop :=
  ∀ (mk : Operand → Instr) (s : State),
    (∀ out, shiftRule mk s.a.toNat (s.flag .c).toNat out →
      ∃ t, Completes (mk .accumulator) s t ∧ t.a.toNat = out.1 ∧ t.flag .c = out.2 ∧ NZFrom t.a t ∧
        OnlyChanges [.a] [.c, .z, .n] [] s t ∧ t.pc = s.pc) ∧
    ∀ (m : Operand) (addr : Addr) (out : Nat × Bool), resolve m s = .memory addr →
      shiftRule mk (s.memRead addr).toNat (s.flag .c).toNat out →
      ∃ t, Completes (mk m) s t ∧ (t.memRead addr).toNat = out.1 ∧ t.flag .c = out.2 ∧
        NZFrom (t.memRead addr) t ∧ OnlyChanges [] [.c, .z, .n] [addr] s t ∧ t.pc = s.pc

/-- 46_inc_dec.md R180, R181: INC and DEC on memory, modulo 256, Z and N only. -/
def Obligations.IncAndDecChangeOneByte : Prop :=
  ∀ (mk : Operand → Instr) (k : Nat), (mk, k) ∈ [(Instr.inc, 1), (Instr.dec, 255)] →
    ∀ (m : Operand) (s : State), (mk m).wf = true →
      (∃ addr, resolve m s = .memory addr) ∧
      ∀ addr, resolve m s = .memory addr →
        ∃ t, Completes (mk m) s t ∧ (t.memRead addr).toNat = ((s.memRead addr).toNat + k) % 256 ∧
          NZFrom (t.memRead addr) t ∧ OnlyChanges [] [.z, .n] [addr] s t ∧ t.pc = s.pc

/-- 46_inc_dec.md R182 to R185: INX, INY, DEX, DEY, modulo 256, Z and N only. -/
def Obligations.RegisterStepsWrapAndSetNZ : Prop :=
  ∀ (i : Instr) (dst : Reg) (k : Nat), (i, dst, k) ∈ [(Instr.inx, Reg.x, 1), (Instr.iny, Reg.y, 1),
      (Instr.dex, Reg.x, 255), (Instr.dey, Reg.y, 255)] →
    ∀ s : State, ∃ t, Completes i s t ∧ (dst.get t).toNat = ((dst.get s).toNat + k) % 256 ∧
      NZFrom (dst.get t) t ∧ OnlyChanges [dst] [.z, .n] [] s t ∧ t.pc = s.pc

/-! ### Control flow -/

/-- 47_branches.md R190 to R198: a branch whose flag has its value moves PC by the signed offset from the
address after its two bytes, and falls through otherwise; nothing else changes. -/
def Obligations.BranchesMovePcByTheSignedOffset : Prop :=
  ∀ (mk : Operand → Instr) (f : Flag) (on : Bool),
    (mk, f, on) ∈ [(Instr.bcc, Flag.c, false), (Instr.bcs, Flag.c, true), (Instr.bne, Flag.z, false),
      (Instr.beq, Flag.z, true), (Instr.bpl, Flag.n, false), (Instr.bmi, Flag.n, true),
      (Instr.bvc, Flag.v, false), (Instr.bvs, Flag.v, true)] →
    ∀ (m : Operand) (s : State), (mk m).wf = true →
      ∃ off t, m = .relative off ∧ Completes (mk m) s t ∧ OnlyChanges [] [] [] s t ∧
        (s.flag f = on → (t.pc.toNat : Int) = ((s.pc.toNat : Int) + off.toInt) % 65536) ∧
        (s.flag f ≠ on → t.pc = s.pc)

/-- 48_jumps_calls.md R200: JMP to its operand, or to the pointer read inside one page, from the bytes the
source lists (0x4C and 0x6C); nothing but PC changes. -/
def Obligations.JmpGoesToItsTarget : Prop :=
  (∀ lo hi : Byte, decodeBytes 0x4C lo hi = .jmp (.absolute (joinBytes hi lo)) ∧
    decodeBytes 0x6C lo hi = .jmp (.indirect (joinBytes hi lo)) ∧
    (decodeBytes 0x4C lo hi).length = 3 ∧ (decodeBytes 0x6C lo hi).length = 3) ∧
  (∀ (m : Operand), (Instr.jmp m).wf = true ↔ (∃ a, m = .absolute a) ∨ ∃ a, m = .indirect a) ∧
  ∀ (a : Addr) (s : State),
    (∃ t, Completes (.jmp (.absolute a)) s t ∧ t.pc = a ∧ OnlyChanges [] [] [] s t) ∧
    ∃ t, Completes (.jmp (.indirect a)) s t ∧
      t.pc.toNat = byteAt s a.toNat +
        256 * byteAt s (if a.toNat % 256 = 255 then a.toNat - 255 else a.toNat + 1) ∧
      OnlyChanges [] [] [] s t

/-- 48_jumps_calls.md R201 (operand read before the pushes: D26): JSR pushes the address of its last byte,
high byte first, and jumps. -/
def Obligations.JsrPushesTheAddressOfItsLastByte : Prop :=
  ∀ (m : Operand) (s : State), (Instr.jsr m).wf = true →
    ∃ a t, m = .absolute a ∧ Completes (.jsr m) s t ∧ t.pc = a ∧ t.sp = s.sp - 2 ∧
      t.memRead (slot s.sp) = highByte (s.pc - 1) ∧ t.memRead (slot (s.sp - 1)) = lowByte (s.pc - 1) ∧
      OnlyChanges [.sp] [] [slot s.sp, slot (s.sp - 1)] s t

/-- 48_jumps_calls.md R202: RTS pops a 16-bit value, low byte first, and adds 1. -/
def Obligations.RtsReturnsPastThePoppedAddress : Prop :=
  ∀ s : State, ∃ t, Completes .rts s t ∧ t.sp = s.sp + 2 ∧
    t.pc.toNat = ((s.memRead (slot (s.sp + 1))).toNat + 256 * (s.memRead (slot (s.sp + 2))).toNat + 1) % 65536 ∧
    OnlyChanges [.sp] [] [] s t

/-- 48_jumps_calls.md R203: RTI pulls P, U forced to 1 and B to 0, then PC with no 1 added. -/
def Obligations.RtiRestoresStatusThenPc : Prop :=
  ∀ s : State, ∃ t, Completes .rti s t ∧ t.sp = s.sp + 3 ∧
    t.flag .u = true ∧ t.flag .b = false ∧
    (∀ f, f ≠ .u → f ≠ .b → t.flag f = (s.memRead (slot (s.sp + 1))).getLsbD f.bit) ∧
    t.pc.toNat = (s.memRead (slot (s.sp + 2))).toNat + 256 * (s.memRead (slot (s.sp + 3))).toNat ∧
    OnlyChanges [.sp] [.n, .v, .u, .b, .d, .i, .z, .c] [] s t

/-- 48_jumps_calls.md R201, R202: a JSR and then an RTS anywhere with the stack as JSR left it come back to
the instruction after the JSR, with every register and flag as before. -/
def Obligations.RtsReturnsToAfterTheJsr : Prop :=
  ∀ (m : Operand) (s t : State) (w : Addr), exec (.jsr m) s = .next t →
    ∃ u, exec .rts (t.setPc w) = .next u ∧ u.pc = s.pc ∧ (∀ r : Reg, r.get u = r.get s) ∧ u.p = s.p

/-! ### Stack, flags and system -/

/-- 49_stack_flags_system.md R210, R211: PHA and PHP; only the pushed copy of P has B = 1. -/
def Obligations.PhaAndPhpPushOneByte : Prop :=
  ∀ s : State,
    (∃ t, Completes .pha s t ∧ t.memRead (slot s.sp) = s.a ∧ t.sp = s.sp - 1 ∧
      OnlyChanges [.sp] [] [slot s.sp] s t ∧ t.pc = s.pc) ∧
    ∃ t, Completes .php s t ∧ t.sp = s.sp - 1 ∧
      (∀ f : Flag, (t.memRead (slot s.sp)).getLsbD f.bit = (s.flag f || decide (f = .b))) ∧
      OnlyChanges [.sp] [] [slot s.sp] s t ∧ t.pc = s.pc

/-- 49_stack_flags_system.md R212, R213: PLA and PLP; the restored P has U = 1 and B = 0. -/
def Obligations.PlaAndPlpPullOneByte : Prop :=
  ∀ s : State,
    (∃ t, Completes .pla s t ∧ t.a = s.memRead (slot (s.sp + 1)) ∧ t.sp = s.sp + 1 ∧ NZFrom t.a t ∧
      OnlyChanges [.a, .sp] [.z, .n] [] s t ∧ t.pc = s.pc) ∧
    ∃ t, Completes .plp s t ∧ t.sp = s.sp + 1 ∧ t.flag .u = true ∧ t.flag .b = false ∧
      (∀ f, f ≠ .u → f ≠ .b → t.flag f = (s.memRead (slot (s.sp + 1))).getLsbD f.bit) ∧
      OnlyChanges [.sp] [.n, .v, .u, .b, .d, .i, .z, .c] [] s t ∧ t.pc = s.pc

/-- 95_test_vectors.md I6, R213: PHP then PLP restores P with U = 1 and B = 0, so P itself exactly when it
held U = 1 and B = 0; SP is back. -/
def Obligations.PhpThenPlpRestoresStatus : Prop :=
  ∀ s t : State, exec .php s = .next t →
    ∃ u, exec .plp t = .next u ∧ u.sp = s.sp ∧ u.flag .u = true ∧ u.flag .b = false ∧
      (∀ f, f ≠ .u → f ≠ .b → u.flag f = s.flag f) ∧ (u.p = s.p ↔ s.LaunchPremises)

/-- 49_stack_flags_system.md R214 to R220: the seven flag instructions write their one flag. -/
def Obligations.FlagInstructionsWriteOneFlag : Prop :=
  ∀ (i : Instr) (f : Flag) (on : Bool),
    (i, f, on) ∈ [(Instr.clc, Flag.c, false), (Instr.sec, Flag.c, true), (Instr.cld, Flag.d, false),
      (Instr.sed, Flag.d, true), (Instr.cli, Flag.i, false), (Instr.sei, Flag.i, true),
      (Instr.clv, Flag.v, false)] →
    ∀ s : State, ∃ t, Completes i s t ∧ t.flag f = on ∧ OnlyChanges [] [f] [] s t ∧ t.pc = s.pc

/-- 49_stack_flags_system.md R221, 60_exceptions.md R236, under every parameters (the order and the pushed PC are
decisions D24 and D25): BRK sets I, pushes PC and then P with B = 1 and I = 1, and goes on after its byte
or at the vector. `exec` runs it at the spec's values (D2, D3). -/
def Obligations.BrkEntersTheTrap : Prop :=
  (∀ (c : Config) (s : State), ∃ t, execWith c .brk s = .next t ∧ t.ok = !c.brkHalts ∧
    t.flag .i = true ∧ t.sp = s.sp - 3 ∧
    t.memRead (slot s.sp) = highByte s.pc ∧ t.memRead (slot (s.sp - 1)) = lowByte s.pc ∧
    (∀ f : Flag, (t.memRead (slot (s.sp - 2))).getLsbD f.bit = (s.flag f || decide (f = .b ∨ f = .i))) ∧
    OnlyChanges [.sp] [.i] [slot s.sp, slot (s.sp - 1), slot (s.sp - 2)] s t ∧
    t.pc = if c.brkLoadsVector then BitVec.ofNat 16 (byteAt s 0xFFFE + 256 * byteAt s 0xFFFF) else s.pc) ∧
  ∀ s : State, ∃ t, exec .brk s = .next t ∧ t.ok = true ∧ execWith Config.specValues .brk s = .next t

/-- 60_exceptions.md R237 (with D24, D25): RTI right after BRK returns to the byte after BRK with SP back and I = 1. -/
def Obligations.RtiReturnsFromBrk : Prop :=
  ∀ (c : Config) (s t : State) (w : Addr), execWith c .brk s = .next t →
    ∃ u, exec .rti (t.setPc w) = .next u ∧ u.pc = s.pc ∧ (∀ r : Reg, r.get u = r.get s) ∧
      u.flag .i = true ∧ u.flag .u = true ∧ u.flag .b = false ∧
      ∀ f, f ≠ .i → f ≠ .u → f ≠ .b → u.flag f = s.flag f

/-- 49_stack_flags_system.md R222: NOP, 0xEA, does nothing but advance PC, and the step returns true. -/
def Obligations.NopOnlyAdvancesPc : Prop :=
  (∀ b1 b2 : Byte, decodeBytes 0xEA b1 b2 = .nop ∧ (decodeBytes 0xEA b1 b2).length = 1) ∧
  (∀ s : State, exec .nop s = .next (s.setOk true)) ∧
  ∀ s : State, s.memRead s.pc = 0xEA → step s = .next ((s.setPc (s.pc + 1)).setOk true)

/-- 30_encoding.md R74, 60_exceptions.md R231 (the list is the standard map's, log entry 4): stepping an
undocumented opcode moves PC by one, changes nothing else, and returns false. -/
def Obligations.NullEntryHaltsWithOnlyPcMoved : Prop :=
  (∀ (op : Byte) (s : State), exec (.null op) s = .next (s.setOk false)) ∧
  ∀ s : State, (s.memRead s.pc).toNat ∈ nullOpcodes → step s = .next ((s.setPc (s.pc + 1)).setOk false)

/-! ### The access sequence -/

/-- 20_memory.md R59 (decision D5): memory after a step is memory before it with the writes of the step's
access list done in order. -/
def Obligations.StepWritesExactlyItsAccesses : Prop :=
  ∀ (c : Config) (s t : State), stepWith c s = .next t → t.mem = s.mem.after (stepAccesses c s)

/-- 20_memory.md R59 (decision D5): a step depends on the registers and on the bytes of its access list's
reads alone. Two states that agree on them take the same step with the same accesses. -/
def Obligations.StepReadsOnlyItsAccesses : Prop :=
  ∀ (c : Config) (s s' t : State), SameRegisters s s' →
    (∀ b, Access.read b ∈ stepAccesses c s → s'.memRead b = s.memRead b) → stepWith c s = .next t →
    ∃ t', stepWith c s' = .next t' ∧ SameRegisters t t' ∧ t'.ok = t.ok ∧ stepAccesses c s' = stepAccesses c s

/-! ### The host's side -/

/-- 10_state.md R30, 70_reset_and_hazards.md R250 to R252 (A, X, Y: decision D7): the state after reset, from
any state, every byte of memory 0. The code OK of the call is the model's choice (log entry 12). -/
def Obligations.ResetSetsEveryPieceOfState : Prop :=
  ∀ (c : Config) (s : State), ∃ t, hostCall c .reset s = (.ok, some t) ∧ t = State.reset ∧
    t.a = 0x00 ∧ t.x = 0x00 ∧ t.y = 0x00 ∧ t.sp = 0xFD ∧ t.pc = 0x0600 ∧ t.p = 0x24 ∧
    ∀ b, t.memRead b = 0x00

/-- 70_reset_and_hazards.md R253, R254 (no effect of a failing load: decision D8): a load past 65536 fails and
changes nothing; another one writes its bytes and PC and nothing else; the default offset is 0x0600. The
code OK of a load that succeeds is the model's choice (log entry 12). -/
def Obligations.LoadProgramCopiesTheBytes : Prop :=
  ∀ (c : Config) (s : State) (bytes : List Byte) (offset : Addr),
    (65536 < offset.toNat + bytes.length → hostCall c (.loadAt bytes offset) s = (.loadError, some s)) ∧
    (offset.toNat + bytes.length ≤ 65536 →
      ∃ t, hostCall c (.loadAt bytes offset) s = (.ok, some t) ∧ t.pc = offset ∧ t.p = s.p ∧
        (∀ r : Reg, r.get t = r.get s) ∧
        ∀ b : Addr, t.memRead b =
          if offset.toNat ≤ b.toNat ∧ b.toNat < offset.toNat + bytes.length
          then bytes.getD (b.toNat - offset.toNat) 0 else s.memRead b) ∧
    hostCall c (.load bytes) s = hostCall c (.loadAt bytes 0x0600) s

/-- 70_reset_and_hazards.md R262 (decision D15; the launch boundary: log entry 10): a run ends at the first
boundary where an ending applies, `n` counting the steps to it. A run that meets an ending within its fuel
ends; one that meets none stands where its fuel leaves it; no run is aborted. -/
def Obligations.RunsEndByTheConvention : Prop :=
  ∀ (c : Config) (fuel : Nat) (s : State),
    (∀ n t, runToEnd c fuel s = .ended t n ↔ n ≤ fuel ∧ EndsAt c s n t ∧ ∀ m, m < n → ∀ u, ¬ EndsAt c s m u) ∧
    ((∃ m u, m ≤ fuel ∧ EndsAt c s m u) → ∃ n t, runToEnd c fuel s = .ended t n) ∧
    (∀ t, runToEnd c fuel s = .outOfFuel t ↔
      afterSteps c fuel s = some t ∧ ∀ m, m ≤ fuel → ∀ u, ¬ EndsAt c s m u) ∧
    runToEnd c fuel s ≠ .aborted

/-- 30_encoding.md R95 (the branch form is the conventional syntax, G6; log entry 11): the offset byte of a
branch to a target exists exactly when the target lies within -128..127 of the address after the branch,
and resolving it gives the target. -/
def Obligations.BranchOffsetReachesItsTarget : Prop :=
  ∀ (at_ target : Addr) (s : State), s.pc = at_ + 2 →
    (∀ off, branchOffset at_ target = some off ↔ resolve (.relative off) s = .memory target) ∧
    ((∃ off, branchOffset at_ target = some off) ↔ -128 ≤ (target - (at_ + 2)).toInt ∧ (target - (at_ + 2)).toInt ≤ 127)
end

