-- ==== Sys2Proof/Laws/Flags.lean ====
section
/-! SUPPORT. What each flag update leaves in each flag, and that it touches nothing but P. -/

namespace Sys2Proof.Machine

/-- A flag of a status byte after one flag of it is replaced. -/
theorem putFlag_getLsbD (p : Byte) (f g : Flag) (on : Bool) :
    (putFlag p f on).getLsbD g.bit = if g = f then on else p.getLsbD g.bit := by
  cases on <;> cases f <;> cases g <;> simp [putFlag, Flag.bit]

@[simp] theorem State.flag_setFlag (s : State) (f g : Flag) (on : Bool) :
    (s.setFlag f on).flag g = if g = f then on else s.flag g :=
  putFlag_getLsbD s.p f g on

theorem State.flag_congr {s t : State} (h : t.p = s.p) (f : Flag) : t.flag f = s.flag f := by
  unfold State.flag; rw [h]

@[simp] theorem State.setFlag_a (s : State) (f : Flag) (b : Bool) : (s.setFlag f b).a = s.a := rfl
@[simp] theorem State.setFlag_x (s : State) (f : Flag) (b : Bool) : (s.setFlag f b).x = s.x := rfl
@[simp] theorem State.setFlag_y (s : State) (f : Flag) (b : Bool) : (s.setFlag f b).y = s.y := rfl
@[simp] theorem State.setFlag_sp (s : State) (f : Flag) (b : Bool) : (s.setFlag f b).sp = s.sp := rfl
@[simp] theorem State.setFlag_pc (s : State) (f : Flag) (b : Bool) : (s.setFlag f b).pc = s.pc := rfl
@[simp] theorem State.setFlag_mem (s : State) (f : Flag) (b : Bool) : (s.setFlag f b).mem = s.mem := rfl
@[simp] theorem State.setFlag_ok (s : State) (f : Flag) (b : Bool) : (s.setFlag f b).ok = s.ok := rfl

@[simp] theorem State.setNZ_a (s : State) (v : Byte) : (s.setNZ v).a = s.a := rfl
@[simp] theorem State.setNZ_x (s : State) (v : Byte) : (s.setNZ v).x = s.x := rfl
@[simp] theorem State.setNZ_y (s : State) (v : Byte) : (s.setNZ v).y = s.y := rfl
@[simp] theorem State.setNZ_sp (s : State) (v : Byte) : (s.setNZ v).sp = s.sp := rfl
@[simp] theorem State.setNZ_pc (s : State) (v : Byte) : (s.setNZ v).pc = s.pc := rfl
@[simp] theorem State.setNZ_mem (s : State) (v : Byte) : (s.setNZ v).mem = s.mem := rfl
@[simp] theorem State.setNZ_ok (s : State) (v : Byte) : (s.setNZ v).ok = s.ok := rfl

theorem State.flag_setNZ (s : State) (v : Byte) (g : Flag) :
    (s.setNZ v).flag g = match g with
      | .z => decide (v = 0)
      | .n => bit7 v
      | g => s.flag g := by
  cases g <;> simp [State.setNZ]

@[simp] theorem State.compare_a (s : State) (r m : Byte) : (s.compare r m).a = s.a := rfl
@[simp] theorem State.compare_x (s : State) (r m : Byte) : (s.compare r m).x = s.x := rfl
@[simp] theorem State.compare_y (s : State) (r m : Byte) : (s.compare r m).y = s.y := rfl
@[simp] theorem State.compare_sp (s : State) (r m : Byte) : (s.compare r m).sp = s.sp := rfl
@[simp] theorem State.compare_pc (s : State) (r m : Byte) : (s.compare r m).pc = s.pc := rfl
@[simp] theorem State.compare_mem (s : State) (r m : Byte) : (s.compare r m).mem = s.mem := rfl

theorem State.flag_compare (s : State) (r m : Byte) (g : Flag) :
    (s.compare r m).flag g = match g with
      | .c => decide (m.toNat ≤ r.toNat)
      | .z => decide (r = m)
      | .n => bit7 (r - m)
      | g => s.flag g := by
  cases g <;> simp [State.compare]

/-- The pushed copy of P differs from P in B only (R211). -/
theorem pushedStatus_getLsbD (p : Byte) (g : Flag) :
    (pushedStatus p).getLsbD g.bit = if g = .b then true else p.getLsbD g.bit := by
  cases g <;> simp [pushedStatus, Flag.bit]

/-- The restored P differs from the pulled byte in U and B only (R203, R213). -/
theorem pulledStatus_getLsbD (v : Byte) (g : Flag) :
    (pulledStatus v).getLsbD g.bit = match g with
      | .u => true
      | .b => false
      | g => v.getLsbD g.bit := by
  cases g <;> simp [pulledStatus, Flag.bit]

end Sys2Proof.Machine
end

