-- ==== Sys2Proof/Laws/Memory.lean ====
section
/-! SUPPORT. Memory: read after write, and that every operation keeps the canonical form. -/

namespace Sys2Proof.Machine

theorem Memory.wf_cons {a : Nat} {v : Byte} {m : Memory} :
    Memory.wf ((a, v) :: m) = true ↔
      v ≠ 0 ∧ a < 65536 ∧ (∀ c ∈ m, a < c.1) ∧ Memory.wf m = true := by
  induction m generalizing a v with
  | nil => simp [Memory.wf]; tauto
  | cons c rest ih =>
    obtain ⟨b, w⟩ := c
    constructor
    · intro h
      simp only [Memory.wf, Bool.and_eq_true, decide_eq_true_eq] at h
      obtain ⟨⟨hab, hv⟩, hr⟩ := h
      obtain ⟨-, hb, hall, -⟩ := ih.1 hr
      refine ⟨hv, by omega, ?_, hr⟩
      intro c hc
      rcases List.mem_cons.1 hc with rfl | hc
      · exact hab
      · exact lt_trans hab (hall c hc)
    · rintro ⟨hv, -, hall, hr⟩
      simp only [Memory.wf, Bool.and_eq_true, decide_eq_true_eq]
      exact ⟨⟨hall (b, w) (by simp), hv⟩, hr⟩

/-- An address below every listed one is unlisted. -/
theorem Memory.read_of_lt {m : Memory} {a : Nat} (h : ∀ c ∈ m, a < c.1) : m.read a = 0 := by
  induction m with
  | nil => rfl
  | cons c rest ih =>
    obtain ⟨b, w⟩ := c
    have hb : a < b := h (b, w) (by simp)
    have hr : Memory.read rest a = 0 := ih fun c hc => h c (by simp [hc])
    exact (if_neg (Nat.ne_of_gt hb)).trans hr

theorem Memory.read_erase (m : Memory) (a b : Nat) :
    (m.erase a).read b = if a = b then 0 else m.read b := by
  induction m with
  | nil => exact (ite_self _).symm
  | cons c rest ih =>
    obtain ⟨k, w⟩ := c
    by_cases hka : k = a
    · have he : Memory.erase ((k, w) :: rest) a = Memory.erase rest a :=
        List.filter_cons_of_neg (by simp [hka])
      rw [he, ih]
      by_cases hab : a = b
      · rw [if_pos hab, if_pos hab]
      · rw [if_neg hab, if_neg hab]
        exact (if_neg (by omega)).symm
    · have he : Memory.erase ((k, w) :: rest) a = (k, w) :: Memory.erase rest a :=
        List.filter_cons_of_pos (by simp [hka])
      rw [he]
      by_cases hkb : k = b
      · have hab : a ≠ b := by omega
        simp [Memory.read, hkb, hab]
      · simp only [Memory.read, if_neg hkb, ih]

/-- A cell put into a memory that does not list its address. -/
theorem Memory.read_insertCell {m : Memory} {a : Nat} (hm : ∀ c ∈ m, c.1 ≠ a) (b : Nat) (v : Byte) :
    (m.insertCell a v).read b = if a = b then v else m.read b := by
  induction m with
  | nil => rfl
  | cons c rest ih =>
    obtain ⟨k, w⟩ := c
    have hk : k ≠ a := hm (k, w) (by simp)
    unfold Memory.insertCell
    split
    · rfl
    · rw [Memory.read, ih fun c hc => hm c (by simp [hc])]
      by_cases hkb : k = b
      · have hab : a ≠ b := by omega
        simp [Memory.read, hkb, hab]
      · simp only [Memory.read, if_neg hkb]

theorem Memory.erase_unlisted {m : Memory} {a : Nat} : ∀ c ∈ m.erase a, c.1 ≠ a := by
  intro c hc
  simpa [Memory.erase] using (List.mem_filter.1 hc).2

/-- Read after write (R41, R42), of every memory. -/
theorem Memory.read_write (m : Memory) (a b : Nat) (v : Byte) :
    (m.write a v).read b = if a = b then v else m.read b := by
  unfold Memory.write
  split
  · next hv => rw [Memory.read_erase, hv]
  · rw [Memory.read_insertCell Memory.erase_unlisted, Memory.read_erase]
    by_cases hab : a = b
    · rw [if_pos hab, if_pos hab]
    · rw [if_neg hab, if_neg hab, if_neg hab]

theorem Memory.wf_erase {m : Memory} (hm : m.wf = true) (a : Nat) : (m.erase a).wf = true := by
  induction m with
  | nil => rfl
  | cons c rest ih =>
    obtain ⟨k, w⟩ := c
    obtain ⟨hw, hk, hall, hr⟩ := Memory.wf_cons.1 hm
    by_cases hka : k = a
    · have he : Memory.erase ((k, w) :: rest) a = Memory.erase rest a :=
        List.filter_cons_of_neg (by simp [hka])
      rw [he]; exact ih hr
    · have he : Memory.erase ((k, w) :: rest) a = (k, w) :: Memory.erase rest a :=
        List.filter_cons_of_pos (by simp [hka])
      rw [he]
      exact Memory.wf_cons.2 ⟨hw, hk, fun c hc => hall c (List.mem_filter.1 hc).1, ih hr⟩

theorem Memory.mem_insertCell {m : Memory} {a : Nat} {v : Byte} {c : Host.Cell}
    (h : c ∈ m.insertCell a v) : c = (a, v) ∨ c ∈ m := by
  induction m with
  | nil => exact .inl (List.mem_singleton.1 h)
  | cons d rest ih =>
    unfold Memory.insertCell at h
    split at h
    · exact List.mem_cons.1 h
    · rcases List.mem_cons.1 h with rfl | h
      · exact .inr (by simp)
      · rcases ih h with rfl | h
        · exact .inl rfl
        · exact .inr (by simp [h])

theorem Memory.wf_insertCell {m : Memory} (hm : m.wf = true) {a : Nat} (ha : a < 65536)
    (hun : ∀ c ∈ m, c.1 ≠ a) {v : Byte} (hv : v ≠ 0) : (m.insertCell a v).wf = true := by
  induction m with
  | nil => exact Memory.wf_cons.2 ⟨hv, ha, by simp, rfl⟩
  | cons d rest ih =>
    obtain ⟨k, w⟩ := d
    obtain ⟨hw, hk, hall, hr⟩ := Memory.wf_cons.1 hm
    have hka : k ≠ a := hun (k, w) (by simp)
    unfold Memory.insertCell
    split
    · next hlt =>
      refine Memory.wf_cons.2 ⟨hv, ha, ?_, hm⟩
      intro c hc
      rcases List.mem_cons.1 hc with rfl | hc
      · exact hlt
      · exact lt_trans hlt (hall c hc)
    · next hlt =>
      refine Memory.wf_cons.2 ⟨hw, hk, ?_, ih hr fun c hc => hun c (by simp [hc])⟩
      intro c hc
      rcases Memory.mem_insertCell hc with rfl | hc
      · show k < a; omega
      · exact hall c hc

/-- A write keeps the canonical form. -/
theorem Memory.wf_write {m : Memory} (hm : m.wf = true) {a : Nat} (ha : a < 65536) (v : Byte) :
    (m.write a v).wf = true := by
  unfold Memory.write
  split
  · exact Memory.wf_erase hm a
  · next hv => exact Memory.wf_insertCell (Memory.wf_erase hm a) ha Memory.erase_unlisted hv

/-! ### The same of a state -/

@[simp] theorem State.memWrite_a (s : State) (b : Addr) (v : Byte) : (s.memWrite b v).a = s.a := rfl
@[simp] theorem State.memWrite_x (s : State) (b : Addr) (v : Byte) : (s.memWrite b v).x = s.x := rfl
@[simp] theorem State.memWrite_y (s : State) (b : Addr) (v : Byte) : (s.memWrite b v).y = s.y := rfl
@[simp] theorem State.memWrite_sp (s : State) (b : Addr) (v : Byte) : (s.memWrite b v).sp = s.sp := rfl
@[simp] theorem State.memWrite_pc (s : State) (b : Addr) (v : Byte) : (s.memWrite b v).pc = s.pc := rfl
@[simp] theorem State.memWrite_p (s : State) (b : Addr) (v : Byte) : (s.memWrite b v).p = s.p := rfl
@[simp] theorem State.memWrite_ok (s : State) (b : Addr) (v : Byte) : (s.memWrite b v).ok = s.ok := rfl

theorem State.memRead_congr {s t : State} (h : t.mem = s.mem) (b : Addr) : t.memRead b = s.memRead b := by
  unfold State.memRead; rw [h]

theorem State.memRead_memWrite (s : State) (a b : Addr) (v : Byte) :
    (s.memWrite a v).memRead b = if a = b then v else s.memRead b := by
  show (s.mem.write a.toNat v).read b.toNat = _
  rw [Memory.read_write]
  exact if_congr ⟨BitVec.eq_of_toNat_eq, fun h => h ▸ rfl⟩ rfl rfl

theorem State.memWrite_wf {s : State} (hs : s.mem.wf = true) (a : Addr) (v : Byte) :
    (s.memWrite a v).mem.wf = true :=
  Memory.wf_write hs a.isLt v

theorem State.writeBytes_wf {s : State} (hs : s.mem.wf = true) (a : Nat) (bytes : List Byte)
    (h : a + bytes.length ≤ 65536) : (s.writeBytes a bytes).mem.wf = true := by
  induction bytes generalizing s a with
  | nil => exact hs
  | cons v rest ih =>
    simp only [List.length_cons] at h
    exact ih (s := s.setMem (s.mem.write a v)) (Memory.wf_write hs (by omega) v) (a + 1) (by omega)

theorem Memory.after_wf {m : Memory} (hm : m.wf = true) (l : List Access) : (m.after l).wf = true := by
  induction l generalizing m with
  | nil => exact hm
  | cons c rest ih =>
    cases c with
    | read addr => exact ih hm
    | write addr v => exact ih (Memory.wf_write hm addr.isLt v)

end Sys2Proof.Machine
end

