-- ==== Sys2Proof/Laws/Ops.lean ====
section
/-! SUPPORT. What each shared operation can do, said once: the stack, the outcomes, the trap, and the
operand forms. -/

namespace Sys2Proof.Machine

/-! ### The stack -/

@[simp] theorem State.push_a (s : State) (v : Byte) : (s.push v).a = s.a := rfl
@[simp] theorem State.push_x (s : State) (v : Byte) : (s.push v).x = s.x := rfl
@[simp] theorem State.push_y (s : State) (v : Byte) : (s.push v).y = s.y := rfl
@[simp] theorem State.push_sp (s : State) (v : Byte) : (s.push v).sp = s.sp - 1 := rfl
@[simp] theorem State.push_pc (s : State) (v : Byte) : (s.push v).pc = s.pc := rfl
@[simp] theorem State.push_p (s : State) (v : Byte) : (s.push v).p = s.p := rfl
@[simp] theorem State.push_ok (s : State) (v : Byte) : (s.push v).ok = s.ok := rfl

@[simp] theorem State.pop_a (s : State) : s.pop.2.a = s.a := rfl
@[simp] theorem State.pop_x (s : State) : s.pop.2.x = s.x := rfl
@[simp] theorem State.pop_y (s : State) : s.pop.2.y = s.y := rfl
@[simp] theorem State.pop_sp (s : State) : s.pop.2.sp = s.sp + 1 := rfl
@[simp] theorem State.pop_pc (s : State) : s.pop.2.pc = s.pc := rfl
@[simp] theorem State.pop_p (s : State) : s.pop.2.p = s.p := rfl
@[simp] theorem State.pop_mem (s : State) : s.pop.2.mem = s.mem := rfl
@[simp] theorem State.pop_ok (s : State) : s.pop.2.ok = s.ok := rfl

@[simp] theorem State.push16_a (s : State) (w : Addr) : (s.push16 w).a = s.a := by simp [State.push16]
@[simp] theorem State.push16_x (s : State) (w : Addr) : (s.push16 w).x = s.x := by simp [State.push16]
@[simp] theorem State.push16_y (s : State) (w : Addr) : (s.push16 w).y = s.y := by simp [State.push16]
@[simp] theorem State.push16_pc (s : State) (w : Addr) : (s.push16 w).pc = s.pc := by simp [State.push16]
@[simp] theorem State.push16_p (s : State) (w : Addr) : (s.push16 w).p = s.p := by simp [State.push16]
@[simp] theorem State.push16_ok (s : State) (w : Addr) : (s.push16 w).ok = s.ok := by simp [State.push16]
@[simp] theorem State.push16_sp (s : State) (w : Addr) : (s.push16 w).sp = s.sp - 1 - 1 := by simp [State.push16]

@[simp] theorem State.pop16_a (s : State) : s.pop16.2.a = s.a := by simp [State.pop16]
@[simp] theorem State.pop16_x (s : State) : s.pop16.2.x = s.x := by simp [State.pop16]
@[simp] theorem State.pop16_y (s : State) : s.pop16.2.y = s.y := by simp [State.pop16]
@[simp] theorem State.pop16_pc (s : State) : s.pop16.2.pc = s.pc := by simp [State.pop16]
@[simp] theorem State.pop16_p (s : State) : s.pop16.2.p = s.p := by simp [State.pop16]
@[simp] theorem State.pop16_mem (s : State) : s.pop16.2.mem = s.mem := by simp [State.pop16]
@[simp] theorem State.pop16_ok (s : State) : s.pop16.2.ok = s.ok := by simp [State.pop16]
@[simp] theorem State.pop16_sp (s : State) : s.pop16.2.sp = s.sp + 1 + 1 := by simp [State.pop16]

theorem State.push_wf {s : State} (hs : s.mem.wf = true) (v : Byte) : (s.push v).mem.wf = true :=
  State.memWrite_wf hs _ v

theorem State.push16_wf {s : State} (hs : s.mem.wf = true) (w : Addr) : (s.push16 w).mem.wf = true :=
  State.push_wf (State.push_wf hs _) _

theorem State.memRead_push (s : State) (v : Byte) (b : Addr) :
    (s.push v).memRead b = if stackAddr s.sp = b then v else s.memRead b :=
  State.memRead_memWrite s _ b v

/-- A stack slot's address is the stack page's base plus SP (R48). -/
theorem stackAddr_toNat (sp : Byte) : (stackAddr sp).toNat = 256 + sp.toNat := by
  simp [stackAddr, BitVec.toNat_add]
  omega

theorem stackAddr_inj {p q : Byte} : stackAddr p = stackAddr q ↔ p = q := by
  constructor
  · intro h
    have := congrArg BitVec.toNat h
    simp only [stackAddr_toNat] at this
    exact BitVec.eq_of_toNat_eq (by omega)
  · exact fun h => h ▸ rfl

/-- A pair of bytes as a number, the high byte in the high place (R44). -/
theorem joinBytes_toNat (hi lo : Byte) : (joinBytes hi lo).toNat = 256 * hi.toNat + lo.toNat := by
  have h : (joinBytes hi lo).toNat = hi.toNat <<< 8 ||| lo.toNat := BitVec.toNat_append hi lo
  rw [h, ← Nat.shiftLeft_add_eq_or_of_lt lo.isLt, Nat.shiftLeft_eq]
  omega

theorem lowByte_toNat (w : Addr) : (lowByte w).toNat = w.toNat % 256 := by
  simp [lowByte]

theorem highByte_toNat (w : Addr) : (highByte w).toNat = w.toNat / 256 := by
  simp [highByte, Nat.shiftRight_eq_div_pow]
  omega

/-- A 16-bit value is the join of its two bytes. -/
@[simp] theorem joinBytes_high_low (w : Addr) : joinBytes (highByte w) (lowByte w) = w := by
  apply BitVec.eq_of_toNat_eq
  rw [joinBytes_toNat, lowByte_toNat, highByte_toNat]
  omega

@[simp] theorem lowByte_joinBytes (hi lo : Byte) : lowByte (joinBytes hi lo) = lo := by
  apply BitVec.eq_of_toNat_eq
  rw [lowByte_toNat, joinBytes_toNat]
  omega

@[simp] theorem highByte_joinBytes (hi lo : Byte) : highByte (joinBytes hi lo) = hi := by
  apply BitVec.eq_of_toNat_eq
  rw [highByte_toNat, joinBytes_toNat]
  omega

/-! ### Outcomes -/

theorem complete_next {s t : State} : complete s = .next t ↔ t = s.setOk true := by
  simp [complete, eq_comm]

theorem halt_next {s t : State} : halt s = .next t ↔ t = s.setOk false := by
  simp [halt, eq_comm]

/-! ### The trap -/

theorem State.enterBreak_wf {s : State} (hs : s.mem.wf = true) (c : Config) :
    (s.enterBreak c).mem.wf = true := by
  unfold State.enterBreak
  split <;> exact State.push_wf (State.push16_wf (s := s.setFlag .i true) hs s.pc) _

@[simp] theorem State.enterBreak_p (s : State) (c : Config) : (s.enterBreak c).p = putFlag s.p .i true := by
  unfold State.enterBreak; split <;> simp [State.setFlag]

@[simp] theorem State.enterBreak_sp (s : State) (c : Config) : (s.enterBreak c).sp = s.sp - 1 - 1 - 1 := by
  unfold State.enterBreak; split <;> simp

@[simp] theorem State.enterBreak_a (s : State) (c : Config) : (s.enterBreak c).a = s.a := by
  unfold State.enterBreak; split <;> simp

@[simp] theorem State.enterBreak_x (s : State) (c : Config) : (s.enterBreak c).x = s.x := by
  unfold State.enterBreak; split <;> simp

@[simp] theorem State.enterBreak_y (s : State) (c : Config) : (s.enterBreak c).y = s.y := by
  unfold State.enterBreak; split <;> simp

@[simp] theorem State.enterBreak_ok (s : State) (c : Config) : (s.enterBreak c).ok = s.ok := by
  unfold State.enterBreak; split <;> simp

@[simp] theorem State.leaveBreak_p (s : State) : s.leaveBreak.p = pulledStatus s.pop.1 := by simp [State.leaveBreak]
@[simp] theorem State.leaveBreak_sp (s : State) : s.leaveBreak.sp = s.sp + 1 + 1 + 1 := by simp [State.leaveBreak]
@[simp] theorem State.leaveBreak_mem (s : State) : s.leaveBreak.mem = s.mem := by simp [State.leaveBreak]
@[simp] theorem State.leaveBreak_a (s : State) : s.leaveBreak.a = s.a := by simp [State.leaveBreak]
@[simp] theorem State.leaveBreak_x (s : State) : s.leaveBreak.x = s.x := by simp [State.leaveBreak]
@[simp] theorem State.leaveBreak_y (s : State) : s.leaveBreak.y = s.y := by simp [State.leaveBreak]
@[simp] theorem State.leaveBreak_ok (s : State) : s.leaveBreak.ok = s.ok := by simp [State.leaveBreak]

/-! ### The handle and the operand forms -/

/-- A handle's write changes A or one cell, and nothing else. -/
theorem Handle.write_ok {h : Handle} {v : Byte} {s t : State} (hw : h.write v s = .ok t) :
    (h = .accumulator ∧ t = s.setA v) ∨ ∃ addr, h = .memory addr ∧ t = s.memWrite addr v := by
  cases h with
  | accumulator => exact .inl ⟨rfl, by simpa [Handle.write, eq_comm] using hw⟩
  | memory addr => exact .inr ⟨addr, rfl, by simpa [Handle.write, eq_comm] using hw⟩
  | implicit => simp [Handle.write] at hw
  | immediate w => simp [Handle.write] at hw

/-- A handle's write leaves P alone and keeps the memory's form. -/
theorem Handle.write_keeps {h : Handle} {v : Byte} {s t : State} (hw : h.write v s = .ok t) :
    t.p = s.p ∧ (s.mem.wf = true → t.mem.wf = true) := by
  rcases Handle.write_ok hw with ⟨-, rfl⟩ | ⟨addr, -, rfl⟩
  · exact ⟨rfl, id⟩
  · exact ⟨rfl, fun hs => State.memWrite_wf hs addr v⟩

theorem withValue_next {m : Operand} {s t : State} {k : Byte → State} :
    withValue m s k = .next t ↔ ∃ v, (resolve m s).read s = .ok v ∧ t = (k v).setOk true := by
  unfold withValue
  cases (resolve m s).read s <;> simp [complete, eq_comm]

theorem storeValue_next {m : Operand} {v : Byte} {s t : State} :
    storeValue m v s = .next t ↔ ∃ u, (resolve m s).write v s = .ok u ∧ t = u.setOk true := by
  unfold storeValue
  cases (resolve m s).write v s <;> simp [complete, eq_comm]

theorem shiftOperand_next {m : Operand} {f : Byte → Byte × Bool} {s t : State} :
    shiftOperand m f s = .next t ↔ ∃ v u, (resolve m s).read s = .ok v ∧
      (resolve m s).write (f v).1 (s.setFlag .c (f v).2) = .ok u ∧ t = (u.setNZ (f v).1).setOk true := by
  unfold shiftOperand
  cases (resolve m s).read s with
  | error e => simp
  | ok v => cases hw : (resolve m s).write (f v).1 (s.setFlag .c (f v).2) <;> simp [complete, hw, eq_comm]

theorem adjustOperand_next {m : Operand} {f : Byte → Byte} {s t : State} :
    adjustOperand m f s = .next t ↔ ∃ v u, (resolve m s).read s = .ok v ∧
      (resolve m s).write (f v) s = .ok u ∧ t = (u.setNZ (f v)).setOk true := by
  unfold adjustOperand
  cases (resolve m s).read s with
  | error e => simp
  | ok v => cases hw : (resolve m s).write (f v) s <;> simp [complete, hw, eq_comm]

theorem withTarget_next {m : Operand} {s t : State} {k : Addr → State} :
    withTarget m s k = .next t ↔ ∃ a, resolve m s = .memory a ∧ t = (k a).setOk true := by
  unfold withTarget
  cases resolve m s <;> simp [Handle.target, complete, eq_comm]

theorem branchIf_next {m : Operand} {s t : State} {cond : Bool} :
    branchIf cond m s = .next t ↔
      (cond = false ∧ t = s.setOk true) ∨
      (cond = true ∧ ∃ a, resolve m s = .memory a ∧ t = (s.setPc a).setOk true) := by
  cases cond
  · simp [branchIf, complete_next]
  · simp [branchIf, withTarget_next]

end Sys2Proof.Machine
end

