-- ==== Sys2Proof/Laws/Arithmetic.lean ====
section
/-! SUPPORT. What ADC and SBC do with the adder's outputs, field by field. -/

namespace Sys2Proof.Machine

@[simp] theorem State.takeSum_a (s : State) (o : AddOut) : (s.takeSum o).a = o.r := rfl
@[simp] theorem State.takeSum_x (s : State) (o : AddOut) : (s.takeSum o).x = s.x := rfl
@[simp] theorem State.takeSum_y (s : State) (o : AddOut) : (s.takeSum o).y = s.y := rfl
@[simp] theorem State.takeSum_sp (s : State) (o : AddOut) : (s.takeSum o).sp = s.sp := rfl
@[simp] theorem State.takeSum_pc (s : State) (o : AddOut) : (s.takeSum o).pc = s.pc := rfl
@[simp] theorem State.takeSum_mem (s : State) (o : AddOut) : (s.takeSum o).mem = s.mem := rfl
@[simp] theorem State.takeSum_ok (s : State) (o : AddOut) : (s.takeSum o).ok = s.ok := rfl

theorem State.flag_takeSum (s : State) (o : AddOut) (g : Flag) :
    (s.takeSum o).flag g = match g with
      | .c => o.c
      | .v => o.v
      | .z => decide (o.r = 0)
      | .n => bit7 o.r
      | g => s.flag g := by
  unfold State.takeSum
  rw [State.flag_setNZ]
  cases g <;> simp
  all_goals rfl

end Sys2Proof.Machine
end

