-- ==== Sys2Proof/Laws/PerInstr.lean ====
section
/-! SUPPORT. Laws of every instruction as syntax, one lemma per constructor. -/

namespace Sys2Proof.Laws.EncodedLength

/-- A well-formed instruction has 1, 2 or 3 bytes, as many as its mode says (30_encoding.md R71). -/
def Statement (i : Instr) : Prop :=
  i.wf = true → (encode i).length = i.length ∧ 1 ≤ i.length ∧ i.length ≤ 3

theorem bytes_length (m : Operand) : m.bytes.length + 1 = m.mode.length := by
  cases m <;> rfl

/-- Every legal mode of an operation has an opcode. -/
theorem opcode_of_legal (o : Operation) (m : Mode) (h : o.legalModes.contains m = true) :
    (opcodeOf o m).isSome = true := by
  revert h; cases o <;> cases m <;> decide

theorem of_parts {i : Instr} {o : Operation} {m : Operand} (hp : i.parts = .inr (o, m))
    (h : i.wf = true) : (encode i).length = i.length ∧ 1 ≤ i.length ∧ i.length ≤ 3 := by
  have hl : i.length = m.mode.length := by simp [Instr.length, Instr.operand, hp]
  have hw : o.legalModes.contains m.mode = true := by simpa [Instr.wf, hp] using h
  obtain ⟨op, hop⟩ := Option.isSome_iff_exists.1 (opcode_of_legal o m.mode hw)
  have he : encode i = op :: m.bytes := by simp [encode, hp, hop]
  rw [he, hl, List.length_cons, bytes_length]
  exact ⟨rfl, by cases m.mode <;> decide⟩

theorem lda (m : Operand) : Statement (.lda m) := fun h => of_parts rfl h
theorem ldx (m : Operand) : Statement (.ldx m) := fun h => of_parts rfl h
theorem ldy (m : Operand) : Statement (.ldy m) := fun h => of_parts rfl h
theorem sta (m : Operand) : Statement (.sta m) := fun h => of_parts rfl h
theorem stx (m : Operand) : Statement (.stx m) := fun h => of_parts rfl h
theorem sty (m : Operand) : Statement (.sty m) := fun h => of_parts rfl h
theorem tax : Statement .tax := fun _ => by decide
theorem tay : Statement .tay := fun _ => by decide
theorem tsx : Statement .tsx := fun _ => by decide
theorem txa : Statement .txa := fun _ => by decide
theorem tya : Statement .tya := fun _ => by decide
theorem txs : Statement .txs := fun _ => by decide
theorem adc (m : Operand) : Statement (.adc m) := fun h => of_parts rfl h
theorem sbc (m : Operand) : Statement (.sbc m) := fun h => of_parts rfl h
theorem cmp (m : Operand) : Statement (.cmp m) := fun h => of_parts rfl h
theorem cpx (m : Operand) : Statement (.cpx m) := fun h => of_parts rfl h
theorem cpy (m : Operand) : Statement (.cpy m) := fun h => of_parts rfl h
theorem and (m : Operand) : Statement (.and m) := fun h => of_parts rfl h
theorem ora (m : Operand) : Statement (.ora m) := fun h => of_parts rfl h
theorem eor (m : Operand) : Statement (.eor m) := fun h => of_parts rfl h
theorem bit (m : Operand) : Statement (.bit m) := fun h => of_parts rfl h
theorem asl (m : Operand) : Statement (.asl m) := fun h => of_parts rfl h
theorem lsr (m : Operand) : Statement (.lsr m) := fun h => of_parts rfl h
theorem rol (m : Operand) : Statement (.rol m) := fun h => of_parts rfl h
theorem ror (m : Operand) : Statement (.ror m) := fun h => of_parts rfl h
theorem inc (m : Operand) : Statement (.inc m) := fun h => of_parts rfl h
theorem dec (m : Operand) : Statement (.dec m) := fun h => of_parts rfl h
theorem inx : Statement .inx := fun _ => by decide
theorem iny : Statement .iny := fun _ => by decide
theorem dex : Statement .dex := fun _ => by decide
theorem dey : Statement .dey := fun _ => by decide
theorem bcc (m : Operand) : Statement (.bcc m) := fun h => of_parts rfl h
theorem bcs (m : Operand) : Statement (.bcs m) := fun h => of_parts rfl h
theorem bne (m : Operand) : Statement (.bne m) := fun h => of_parts rfl h
theorem beq (m : Operand) : Statement (.beq m) := fun h => of_parts rfl h
theorem bpl (m : Operand) : Statement (.bpl m) := fun h => of_parts rfl h
theorem bmi (m : Operand) : Statement (.bmi m) := fun h => of_parts rfl h
theorem bvc (m : Operand) : Statement (.bvc m) := fun h => of_parts rfl h
theorem bvs (m : Operand) : Statement (.bvs m) := fun h => of_parts rfl h
theorem jmp (m : Operand) : Statement (.jmp m) := fun h => of_parts rfl h
theorem jsr (m : Operand) : Statement (.jsr m) := fun h => of_parts rfl h
theorem rts : Statement .rts := fun _ => by decide
theorem rti : Statement .rti := fun _ => by decide
theorem pha : Statement .pha := fun _ => by decide
theorem php : Statement .php := fun _ => by decide
theorem pla : Statement .pla := fun _ => by decide
theorem plp : Statement .plp := fun _ => by decide
theorem clc : Statement .clc := fun _ => by decide
theorem sec : Statement .sec := fun _ => by decide
theorem cld : Statement .cld := fun _ => by decide
theorem sed : Statement .sed := fun _ => by decide
theorem cli : Statement .cli := fun _ => by decide
theorem sei : Statement .sei := fun _ => by decide
theorem clv : Statement .clv := fun _ => by decide
theorem brk : Statement .brk := fun _ => by decide
theorem nop : Statement .nop := fun _ => by decide
theorem null (op : Byte) : Statement (.null op) := fun _ => ⟨rfl, Nat.le_refl 1, Nat.le_add_left 1 2⟩

end Sys2Proof.Laws.EncodedLength
end

