-- ==== Sys2Proof/Tests/Slice0.lean ====
section
/-! SUPPORT. Tests: well-formedness, decoding word by word, one step per test, the host's operations, and a
witness for the hypotheses of each statement. Expected values are those of 95_test_vectors.md (its section
is named) or of the rule named. -/

namespace Sys2Proof.Tests

open Sys2Proof.Machine Sys2Proof.Claims

/-! ### Helpers -/

/-- The state after one step of three bytes stored at PC; a stopped step leaves the state as it was. -/
def ran (b0 b1 b2 : Byte) (s : State) : State :=
  match step (s.placeAtPc b0 b1 b2) with
  | .next t => t
  | .fault _ => s
  | .refused _ => s

/-- The same under given parameters. -/
def ranWith (c : Config) (b0 b1 b2 : Byte) (s : State) : State :=
  match stepWith c (s.placeAtPc b0 b1 b2) with
  | .next t => t
  | .fault _ => s
  | .refused _ => s

/-- The accesses of that step at the spec's values. -/
def accesses (b0 b1 b2 : Byte) (s : State) : List Access := stepAccesses Config.specValues (s.placeAtPc b0 b1 b2)

/-- Reset with three stack cells from an address up. -/
def withStack (sp : Byte) (a : Addr) (v0 v1 v2 : Byte) : State :=
  (((State.reset.setSp sp).memWrite a v0).memWrite (a + 1) v1).memWrite (a + 2) v2

/-! ### Well-formedness: an ill-formed term for each check -/

/-- STA has no Immediate mode (R133). -/
theorem test_wf_refuses_sta_immediate : (Instr.sta (.immediate 0x05)).wf = false := by decide

/-- An operation with an operand has no Implicit mode; ASL has Accumulator (R130, R170). -/
theorem test_wf_refuses_implicit_operand :
    (Instr.lda .implicit).wf = false ∧ (Instr.lda .accumulator).wf = false ∧ (Instr.asl .accumulator).wf = true := by
  decide

/-- Only LDX and STX have ZeropageY (R88); only JMP has Indirect (R82); only branches have Relative (R85). -/
theorem test_wf_refuses_misplaced_modes :
    (Instr.lda (.zeropageY 0x10)).wf = false ∧ (Instr.jsr (.indirect 0x10FF)).wf = false ∧
      (Instr.jmp (.relative 0x10)).wf = false ∧ (Instr.beq (.absolute 0x0700)).wf = false := by decide

/-- 0xA9 is LDA, no null entry; 0x02 is one (R74). -/
theorem test_wf_refuses_null_of_a_documented_byte :
    (Instr.null 0xA9).wf = false ∧ (Instr.null 0x02).wf = true := by decide

/-! ### Decoding: words written bit by bit from the opcode table, all 151 documented opcodes and a null one -/

theorem test_decode_loads_and_stores_1 :
    decode [0b10100001, 0x9C] = .ok (.lda (.indirectX 0x9C), []) ∧
    decode [0b10100101, 0x9C] = .ok (.lda (.zeropage 0x9C), []) ∧
    decode [0b10101001, 0x9C] = .ok (.lda (.immediate 0x9C), []) ∧
    decode [0b10101101, 0x34, 0x12] = .ok (.lda (.absolute 0x1234), []) ∧
    decode [0b10110001, 0x9C] = .ok (.lda (.indirectY 0x9C), []) ∧
    decode [0b10110101, 0x9C] = .ok (.lda (.zeropageX 0x9C), []) ∧
    decode [0b10111001, 0x34, 0x12] = .ok (.lda (.absoluteY 0x1234), []) ∧
    decode [0b10111101, 0x34, 0x12] = .ok (.lda (.absoluteX 0x1234), []) ∧
    decode [0b10100010, 0x9C] = .ok (.ldx (.immediate 0x9C), []) ∧
    decode [0b10100110, 0x9C] = .ok (.ldx (.zeropage 0x9C), []) := by decide

theorem test_decode_loads_and_stores_2 :
    decode [0b10101110, 0x34, 0x12] = .ok (.ldx (.absolute 0x1234), []) ∧
    decode [0b10110110, 0x9C] = .ok (.ldx (.zeropageY 0x9C), []) ∧
    decode [0b10111110, 0x34, 0x12] = .ok (.ldx (.absoluteY 0x1234), []) ∧
    decode [0b10100000, 0x9C] = .ok (.ldy (.immediate 0x9C), []) ∧
    decode [0b10100100, 0x9C] = .ok (.ldy (.zeropage 0x9C), []) ∧
    decode [0b10101100, 0x34, 0x12] = .ok (.ldy (.absolute 0x1234), []) ∧
    decode [0b10110100, 0x9C] = .ok (.ldy (.zeropageX 0x9C), []) ∧
    decode [0b10111100, 0x34, 0x12] = .ok (.ldy (.absoluteX 0x1234), []) ∧
    decode [0b10000001, 0x9C] = .ok (.sta (.indirectX 0x9C), []) ∧
    decode [0b10000101, 0x9C] = .ok (.sta (.zeropage 0x9C), []) := by decide

theorem test_decode_loads_and_stores_3 :
    decode [0b10001101, 0x34, 0x12] = .ok (.sta (.absolute 0x1234), []) ∧
    decode [0b10010001, 0x9C] = .ok (.sta (.indirectY 0x9C), []) ∧
    decode [0b10010101, 0x9C] = .ok (.sta (.zeropageX 0x9C), []) ∧
    decode [0b10011001, 0x34, 0x12] = .ok (.sta (.absoluteY 0x1234), []) ∧
    decode [0b10011101, 0x34, 0x12] = .ok (.sta (.absoluteX 0x1234), []) ∧
    decode [0b10000110, 0x9C] = .ok (.stx (.zeropage 0x9C), []) ∧
    decode [0b10001110, 0x34, 0x12] = .ok (.stx (.absolute 0x1234), []) ∧
    decode [0b10010110, 0x9C] = .ok (.stx (.zeropageY 0x9C), []) ∧
    decode [0b10000100, 0x9C] = .ok (.sty (.zeropage 0x9C), []) ∧
    decode [0b10001100, 0x34, 0x12] = .ok (.sty (.absolute 0x1234), []) := by decide

theorem test_decode_loads_and_stores_4 :
    decode [0b10010100, 0x9C] = .ok (.sty (.zeropageX 0x9C), []) := by decide

theorem test_decode_transfers :
    decode [0b10101010] = .ok (.tax, []) ∧
    decode [0b10101000] = .ok (.tay, []) ∧
    decode [0b10111010] = .ok (.tsx, []) ∧
    decode [0b10001010] = .ok (.txa, []) ∧
    decode [0b10011000] = .ok (.tya, []) ∧
    decode [0b10011010] = .ok (.txs, []) := by decide

theorem test_decode_arithmetic_1 :
    decode [0b01100001, 0x9C] = .ok (.adc (.indirectX 0x9C), []) ∧
    decode [0b01100101, 0x9C] = .ok (.adc (.zeropage 0x9C), []) ∧
    decode [0b01101001, 0x9C] = .ok (.adc (.immediate 0x9C), []) ∧
    decode [0b01101101, 0x34, 0x12] = .ok (.adc (.absolute 0x1234), []) ∧
    decode [0b01110001, 0x9C] = .ok (.adc (.indirectY 0x9C), []) ∧
    decode [0b01110101, 0x9C] = .ok (.adc (.zeropageX 0x9C), []) ∧
    decode [0b01111001, 0x34, 0x12] = .ok (.adc (.absoluteY 0x1234), []) ∧
    decode [0b01111101, 0x34, 0x12] = .ok (.adc (.absoluteX 0x1234), []) ∧
    decode [0b11100001, 0x9C] = .ok (.sbc (.indirectX 0x9C), []) ∧
    decode [0b11100101, 0x9C] = .ok (.sbc (.zeropage 0x9C), []) := by decide

theorem test_decode_arithmetic_2 :
    decode [0b11101001, 0x9C] = .ok (.sbc (.immediate 0x9C), []) ∧
    decode [0b11101101, 0x34, 0x12] = .ok (.sbc (.absolute 0x1234), []) ∧
    decode [0b11110001, 0x9C] = .ok (.sbc (.indirectY 0x9C), []) ∧
    decode [0b11110101, 0x9C] = .ok (.sbc (.zeropageX 0x9C), []) ∧
    decode [0b11111001, 0x34, 0x12] = .ok (.sbc (.absoluteY 0x1234), []) ∧
    decode [0b11111101, 0x34, 0x12] = .ok (.sbc (.absoluteX 0x1234), []) ∧
    decode [0b11000001, 0x9C] = .ok (.cmp (.indirectX 0x9C), []) ∧
    decode [0b11000101, 0x9C] = .ok (.cmp (.zeropage 0x9C), []) ∧
    decode [0b11001001, 0x9C] = .ok (.cmp (.immediate 0x9C), []) ∧
    decode [0b11001101, 0x34, 0x12] = .ok (.cmp (.absolute 0x1234), []) := by decide

theorem test_decode_arithmetic_3 :
    decode [0b11010001, 0x9C] = .ok (.cmp (.indirectY 0x9C), []) ∧
    decode [0b11010101, 0x9C] = .ok (.cmp (.zeropageX 0x9C), []) ∧
    decode [0b11011001, 0x34, 0x12] = .ok (.cmp (.absoluteY 0x1234), []) ∧
    decode [0b11011101, 0x34, 0x12] = .ok (.cmp (.absoluteX 0x1234), []) ∧
    decode [0b11100000, 0x9C] = .ok (.cpx (.immediate 0x9C), []) ∧
    decode [0b11100100, 0x9C] = .ok (.cpx (.zeropage 0x9C), []) ∧
    decode [0b11101100, 0x34, 0x12] = .ok (.cpx (.absolute 0x1234), []) ∧
    decode [0b11000000, 0x9C] = .ok (.cpy (.immediate 0x9C), []) ∧
    decode [0b11000100, 0x9C] = .ok (.cpy (.zeropage 0x9C), []) ∧
    decode [0b11001100, 0x34, 0x12] = .ok (.cpy (.absolute 0x1234), []) := by decide

theorem test_decode_logic_1 :
    decode [0b00100001, 0x9C] = .ok (.and (.indirectX 0x9C), []) ∧
    decode [0b00100101, 0x9C] = .ok (.and (.zeropage 0x9C), []) ∧
    decode [0b00101001, 0x9C] = .ok (.and (.immediate 0x9C), []) ∧
    decode [0b00101101, 0x34, 0x12] = .ok (.and (.absolute 0x1234), []) ∧
    decode [0b00110001, 0x9C] = .ok (.and (.indirectY 0x9C), []) ∧
    decode [0b00110101, 0x9C] = .ok (.and (.zeropageX 0x9C), []) ∧
    decode [0b00111001, 0x34, 0x12] = .ok (.and (.absoluteY 0x1234), []) ∧
    decode [0b00111101, 0x34, 0x12] = .ok (.and (.absoluteX 0x1234), []) ∧
    decode [0b00000001, 0x9C] = .ok (.ora (.indirectX 0x9C), []) ∧
    decode [0b00000101, 0x9C] = .ok (.ora (.zeropage 0x9C), []) := by decide

theorem test_decode_logic_2 :
    decode [0b00001001, 0x9C] = .ok (.ora (.immediate 0x9C), []) ∧
    decode [0b00001101, 0x34, 0x12] = .ok (.ora (.absolute 0x1234), []) ∧
    decode [0b00010001, 0x9C] = .ok (.ora (.indirectY 0x9C), []) ∧
    decode [0b00010101, 0x9C] = .ok (.ora (.zeropageX 0x9C), []) ∧
    decode [0b00011001, 0x34, 0x12] = .ok (.ora (.absoluteY 0x1234), []) ∧
    decode [0b00011101, 0x34, 0x12] = .ok (.ora (.absoluteX 0x1234), []) ∧
    decode [0b01000001, 0x9C] = .ok (.eor (.indirectX 0x9C), []) ∧
    decode [0b01000101, 0x9C] = .ok (.eor (.zeropage 0x9C), []) ∧
    decode [0b01001001, 0x9C] = .ok (.eor (.immediate 0x9C), []) ∧
    decode [0b01001101, 0x34, 0x12] = .ok (.eor (.absolute 0x1234), []) := by decide

theorem test_decode_logic_3 :
    decode [0b01010001, 0x9C] = .ok (.eor (.indirectY 0x9C), []) ∧
    decode [0b01010101, 0x9C] = .ok (.eor (.zeropageX 0x9C), []) ∧
    decode [0b01011001, 0x34, 0x12] = .ok (.eor (.absoluteY 0x1234), []) ∧
    decode [0b01011101, 0x34, 0x12] = .ok (.eor (.absoluteX 0x1234), []) ∧
    decode [0b00100100, 0x9C] = .ok (.bit (.zeropage 0x9C), []) ∧
    decode [0b00101100, 0x34, 0x12] = .ok (.bit (.absolute 0x1234), []) := by decide

theorem test_decode_shifts_1 :
    decode [0b00000110, 0x9C] = .ok (.asl (.zeropage 0x9C), []) ∧
    decode [0b00001010] = .ok (.asl .accumulator, []) ∧
    decode [0b00001110, 0x34, 0x12] = .ok (.asl (.absolute 0x1234), []) ∧
    decode [0b00010110, 0x9C] = .ok (.asl (.zeropageX 0x9C), []) ∧
    decode [0b00011110, 0x34, 0x12] = .ok (.asl (.absoluteX 0x1234), []) ∧
    decode [0b01000110, 0x9C] = .ok (.lsr (.zeropage 0x9C), []) ∧
    decode [0b01001010] = .ok (.lsr .accumulator, []) ∧
    decode [0b01001110, 0x34, 0x12] = .ok (.lsr (.absolute 0x1234), []) ∧
    decode [0b01010110, 0x9C] = .ok (.lsr (.zeropageX 0x9C), []) ∧
    decode [0b01011110, 0x34, 0x12] = .ok (.lsr (.absoluteX 0x1234), []) := by decide

theorem test_decode_shifts_2 :
    decode [0b00100110, 0x9C] = .ok (.rol (.zeropage 0x9C), []) ∧
    decode [0b00101010] = .ok (.rol .accumulator, []) ∧
    decode [0b00101110, 0x34, 0x12] = .ok (.rol (.absolute 0x1234), []) ∧
    decode [0b00110110, 0x9C] = .ok (.rol (.zeropageX 0x9C), []) ∧
    decode [0b00111110, 0x34, 0x12] = .ok (.rol (.absoluteX 0x1234), []) ∧
    decode [0b01100110, 0x9C] = .ok (.ror (.zeropage 0x9C), []) ∧
    decode [0b01101010] = .ok (.ror .accumulator, []) ∧
    decode [0b01101110, 0x34, 0x12] = .ok (.ror (.absolute 0x1234), []) ∧
    decode [0b01110110, 0x9C] = .ok (.ror (.zeropageX 0x9C), []) ∧
    decode [0b01111110, 0x34, 0x12] = .ok (.ror (.absoluteX 0x1234), []) := by decide

theorem test_decode_increments_1 :
    decode [0b11100110, 0x9C] = .ok (.inc (.zeropage 0x9C), []) ∧
    decode [0b11101110, 0x34, 0x12] = .ok (.inc (.absolute 0x1234), []) ∧
    decode [0b11110110, 0x9C] = .ok (.inc (.zeropageX 0x9C), []) ∧
    decode [0b11111110, 0x34, 0x12] = .ok (.inc (.absoluteX 0x1234), []) ∧
    decode [0b11000110, 0x9C] = .ok (.dec (.zeropage 0x9C), []) ∧
    decode [0b11001110, 0x34, 0x12] = .ok (.dec (.absolute 0x1234), []) ∧
    decode [0b11010110, 0x9C] = .ok (.dec (.zeropageX 0x9C), []) ∧
    decode [0b11011110, 0x34, 0x12] = .ok (.dec (.absoluteX 0x1234), []) ∧
    decode [0b11101000] = .ok (.inx, []) ∧
    decode [0b11001000] = .ok (.iny, []) := by decide

theorem test_decode_increments_2 :
    decode [0b11001010] = .ok (.dex, []) ∧
    decode [0b10001000] = .ok (.dey, []) := by decide

theorem test_decode_branches :
    decode [0b10010000, 0x9C] = .ok (.bcc (.relative 0x9C), []) ∧
    decode [0b10110000, 0x9C] = .ok (.bcs (.relative 0x9C), []) ∧
    decode [0b11010000, 0x9C] = .ok (.bne (.relative 0x9C), []) ∧
    decode [0b11110000, 0x9C] = .ok (.beq (.relative 0x9C), []) ∧
    decode [0b00010000, 0x9C] = .ok (.bpl (.relative 0x9C), []) ∧
    decode [0b00110000, 0x9C] = .ok (.bmi (.relative 0x9C), []) ∧
    decode [0b01010000, 0x9C] = .ok (.bvc (.relative 0x9C), []) ∧
    decode [0b01110000, 0x9C] = .ok (.bvs (.relative 0x9C), []) := by decide

theorem test_decode_jumps :
    decode [0b01001100, 0x34, 0x12] = .ok (.jmp (.absolute 0x1234), []) ∧
    decode [0b01101100, 0x34, 0x12] = .ok (.jmp (.indirect 0x1234), []) ∧
    decode [0b00100000, 0x34, 0x12] = .ok (.jsr (.absolute 0x1234), []) ∧
    decode [0b01100000] = .ok (.rts, []) ∧
    decode [0b01000000] = .ok (.rti, []) := by decide

theorem test_decode_stack_flags_system_1 :
    decode [0b01001000] = .ok (.pha, []) ∧
    decode [0b00001000] = .ok (.php, []) ∧
    decode [0b01101000] = .ok (.pla, []) ∧
    decode [0b00101000] = .ok (.plp, []) ∧
    decode [0b00011000] = .ok (.clc, []) ∧
    decode [0b00111000] = .ok (.sec, []) ∧
    decode [0b11011000] = .ok (.cld, []) ∧
    decode [0b11111000] = .ok (.sed, []) ∧
    decode [0b01011000] = .ok (.cli, []) ∧
    decode [0b01111000] = .ok (.sei, []) := by decide

theorem test_decode_stack_flags_system_2 :
    decode [0b10111000] = .ok (.clv, []) ∧
    decode [0b00000000] = .ok (.brk, []) ∧
    decode [0b11101010] = .ok (.nop, []) := by decide

/-- A null entry takes its opcode byte alone (R74); a list that ends early is rejected by name. -/
theorem test_decode_null_and_rejections :
    decode [0b00000010, 0xA9] = .ok (.null 0x02, [0xA9]) ∧ decode [] = .error .noOpcodeByte ∧
    decode [0b10101101, 0x34] = .error (.missingOperandByte 0xAD) := by decide

/-- The table's numbering: bit 0 is the lowest bit of the opcode byte; missing operand bytes are 0. -/
theorem test_decodeTableWord :
    decodeTableWord 24 0x0010FF6C = some (.jmp (.indirect 0x10FF)) ∧ decodeTableWord 8 0x6C = some (.jmp (.indirect 0)) ∧
    decodeTableWord 16 0xFDD0 = some (.bne (.relative 0xFD)) := by decide

/-- withFetchWord puts that very instruction where step fetches. -/
theorem test_withFetchWord :
    (State.reset.withFetchWord 24 0x0010FF6C).fetchInstr = .jmp (.indirect 0x10FF) ∧
    (State.reset.withFetchWord 8 0xEA).fetchInstr = .nop := by decide

/-- 95_test_vectors.md 1.4: the ten spellings, and a branch's (R95). -/
theorem test_assembly :
    assemblyOf 0x0600 .brk = some "BRK" ∧ assemblyOf 0x0600 (.ora (.indirectX 0x20)) = some "ORA ($20,X)" ∧
    assemblyOf 0x0600 (.asl .accumulator) = some "ASL A" ∧ assemblyOf 0x0600 (.adc (.immediate 0x01)) = some "ADC #$01" ∧
    assemblyOf 0x0600 (.jmp (.indirect 0x10FF)) = some "JMP ($10FF)" ∧ assemblyOf 0x0603 (.bne (.relative 0xFD)) = some "BNE $0602" ∧
    assemblyOf 0x0600 (.null 0x02) = none := by decide

/-! ### Addressing modes, 95_test_vectors.md 2.1 -/

theorem test_absolute_x_wraps :
    let t := ran 0xBD 0xFF 0xFF ((State.reset.setX 0x02).memWrite 0x0001 0x11)
    t.a = 0x11 ∧ t.pc = 0x0603 := by decide

theorem test_absolute_y_carries :
    let t := ran 0xB9 0xF0 0x12 ((State.reset.setY 0x20).memWrite 0x1310 0x22)
    t.a = 0x22 ∧ t.pc = 0x0603 := by decide

theorem test_zeropage_x_wraps :
    let t := ran 0xB5 0xFF 0x00 (((State.reset.setX 0x01).memWrite 0x0000 0x33).memWrite 0x0100 0x99)
    t.a = 0x33 ∧ t.p = 0x24 := by decide

theorem test_zeropage_y_wraps :
    let t := ran 0xB6 0xF0 0x00 ((State.reset.setY 0x20).memWrite 0x0010 0x44)
    t.x = 0x44 ∧ t.pc = 0x0602 := by decide

theorem test_indirect_x_pointer_wraps :
    let t := ran 0xA1 0xFE 0x00 (((State.reset.setX 0x01).memWrite 0x0000 0x30).memWrite 0x3000 0x55)
    t.a = 0x55 ∧ t.pc = 0x0602 := by decide

theorem test_indirect_y_pointer_wraps :
    let t := ran 0xB1 0xFF 0x00 (((State.reset.setY 0x05).memWrite 0x0000 0x20).memWrite 0x2005 0x66)
    t.a = 0x66 ∧ t.pc = 0x0602 := by decide

/-- Decision D4: the sum is taken modulo 65536. -/
theorem test_indirect_y_sum_wraps :
    let t := ran 0xB1 0x40 0x00 ((((State.reset.setY 0x10).memWrite 0x0040 0xF8).memWrite 0x0041 0xFF).memWrite 0x0008 0x02)
    t.a = 0x02 ∧ t.p = 0x24 := by decide

theorem test_indirect_y_sum_carries :
    let t := ran 0xB1 0x40 0x00 ((((State.reset.setY 0x10).memWrite 0x0040 0xF8).memWrite 0x0041 0x12).memWrite 0x1308 0x01)
    t.a = 0x01 ∧ t.pc = 0x0602 := by decide

theorem test_fetch_wraps_past_ffff :
    let t := ran 0xAD 0x00 0x05 ((State.reset.setPc 0xFFFF).memWrite 0x0500 0x9A)
    t.a = 0x9A ∧ t.pc = 0x0002 ∧ t.p = 0xA4 := by decide

theorem test_accesses_of_a_pointer_read :
    let l := accesses 0xB1 0x40 0x00 ((((State.reset.setY 0x10).memWrite 0x0040 0xF8).memWrite 0x0041 0x12).memWrite 0x1308 0x01)
    l = [.read 0x0600, .read 0x0601, .read 0x0040, .read 0x0041, .read 0x1308] := by decide

/-- 95_test_vectors.md 2.7: one read, then one write. -/
theorem test_accesses_of_a_shift :
    let l := accesses 0x7E 0x00 0x03 (((State.reset.setX 0x01).setP 0x25).memWrite 0x0301 0x02)
    l = [.read 0x0600, .read 0x0601, .read 0x0602, .read 0x0301, .write 0x0301 0x81] := by decide

/-- 95_test_vectors.md 2.2: the target is not read. -/
theorem test_accesses_of_a_store :
    let l := accesses 0x91 0x20 0x00 (((State.reset.setA 0x42).setY 0x01).memWrite 0x0021 0x03)
    l = [.read 0x0600, .read 0x0601, .read 0x0020, .read 0x0021, .write 0x0301 0x42] := by decide

/-- 95_test_vectors.md 2.11. -/
theorem test_accesses_of_brk :
    let l := stepAccesses ⟨false, true, true⟩ ((State.reset.setPc 0x0602).placeAtPc 0 0 0)
    l = [.read 0x0602, .write 0x01FD 0x06, .write 0x01FC 0x03, .write 0x01FB 0x34, .read 0xFFFE, .read 0xFFFF] := by decide

/-! ### Loads and stores, 95_test_vectors.md 2.2; STY by R135 -/

theorem test_lda_zero :
    let t := ran 0xA9 0x00 0x00 (State.reset.setP 0xA4)
    t.a = 0x00 ∧ t.p = 0x26 ∧ t.pc = 0x0602 := by decide

theorem test_lda_negative :
    let t := ran 0xA9 0x80 0x00 State.reset
    t.a = 0x80 ∧ t.p = 0xA4 := by decide

/-- By R131. -/
theorem test_ldx_zero :
    let t := ran 0xA2 0x00 0x00 (State.reset.setX 0x05)
    t.x = 0x00 ∧ t.p = 0x26 := by decide

theorem test_ldy_clears_nz :
    let t := ran 0xA0 0x7F 0x00 (State.reset.setP 0xA6)
    t.y = 0x7F ∧ t.p = 0x24 := by decide

theorem test_sta_sets_no_flag :
    let t := ran 0x85 0x10 0x00 ((State.reset.setA 0x00).memWrite 0x0010 0x99)
    t.memRead 0x0010 = 0x00 ∧ t.p = 0x24 := by decide

theorem test_sta_indirect_y :
    let t := ran 0x91 0x20 0x00 (((State.reset.setA 0x42).setY 0x01).memWrite 0x0021 0x03)
    t.memRead 0x0301 = 0x42 ∧ t.pc = 0x0602 := by decide

theorem test_stx_zeropage_y_wraps :
    let t := ran 0x96 0xFF 0x00 ((State.reset.setX 0xAB).setY 0x02)
    t.memRead 0x0001 = 0xAB ∧ t.memRead 0x0101 = 0x00 := by decide

theorem test_sty_stores_y :
    let t := ran 0x8C 0x00 0x02 (((State.reset.setA 0x01).setX 0x02).setY 0x5A)
    t.memRead 0x0200 = 0x5A ∧ t.p = 0x24 := by decide

/-! ### Transfers, 95_test_vectors.md 2.3 -/

theorem test_tax :
    let t := ran 0xAA 0x00 0x00 ((State.reset.setA 0x00).setX 0x05)
    t.x = 0x00 ∧ t.p = 0x26 := by decide

theorem test_tay :
    let t := ran 0xA8 0x00 0x00 (State.reset.setA 0x80)
    t.y = 0x80 ∧ t.p = 0xA4 := by decide

theorem test_tsx :
    let t := ran 0xBA 0x00 0x00 State.reset
    t.x = 0xFD ∧ t.p = 0xA4 := by decide

theorem test_txs_sets_no_flag :
    let t := ran 0x9A 0x00 0x00 State.reset
    t.sp = 0x00 ∧ t.p = 0x24 := by decide

theorem test_txa :
    let t := ran 0x8A 0x00 0x00 (State.reset.setX 0xFF)
    t.a = 0xFF ∧ t.p = 0xA4 := by decide

theorem test_tya :
    let t := ran 0x98 0x00 0x00 (State.reset.setY 0x01)
    t.a = 0x01 ∧ t.p = 0x24 := by decide

/-! ### Arithmetic and compares, 95_test_vectors.md 2.4 and 2.5 -/

/-- Rows A, operand, P before, A after, P after, of one instruction in its Immediate form. -/
def rowsHold (op : Byte) (rows : List (Byte × Byte × Byte × Byte × Byte)) : Bool :=
  rows.all fun (a, m, p, a', p') =>
    let t := ran op m 0x00 ((State.reset.setA a).setP p)
    t.a == a' && t.p == p'

theorem test_adc_rows :
    rowsHold 0x69 [(0x50, 0x10, 0x24, 0x60, 0x24), (0x50, 0x50, 0x24, 0xA0, 0xE4), (0x50, 0x90, 0x24, 0xE0, 0xA4), (0x50, 0xD0, 0x24, 0x20, 0x25), (0xD0, 0x10, 0x24, 0xE0, 0xA4), (0xD0, 0x50, 0x24, 0x20, 0x25), (0xD0, 0x90, 0x24, 0x60, 0x65)] = true ∧
    rowsHold 0x69 [(0xD0, 0xD0, 0x24, 0xA0, 0xA5), (0xFF, 0x01, 0x24, 0x00, 0x27), (0xFF, 0x00, 0x25, 0x00, 0x27), (0x7F, 0x00, 0x25, 0x80, 0xE4), (0x80, 0xFF, 0x24, 0x7F, 0x65), (0x00, 0x00, 0x24, 0x00, 0x26), (0xFF, 0xFF, 0x25, 0xFF, 0xA5)] = true := by decide

theorem test_sbc_rows :
    rowsHold 0xE9 [(0x50, 0xF0, 0x25, 0x60, 0x24), (0x50, 0xB0, 0x25, 0xA0, 0xE4), (0x50, 0x70, 0x25, 0xE0, 0xA4), (0x50, 0x30, 0x25, 0x20, 0x25), (0xD0, 0xF0, 0x25, 0xE0, 0xA4), (0xD0, 0xB0, 0x25, 0x20, 0x25), (0xD0, 0x70, 0x25, 0x60, 0x65)] = true ∧
    rowsHold 0xE9 [(0xD0, 0x30, 0x25, 0xA0, 0xA5), (0x00, 0x01, 0x25, 0xFF, 0xA4), (0x80, 0x01, 0x25, 0x7F, 0x65), (0x05, 0x05, 0x24, 0xFF, 0xA4), (0x05, 0x05, 0x25, 0x00, 0x27), (0x00, 0x00, 0x24, 0xFF, 0xA4), (0xFF, 0xFF, 0x25, 0x00, 0x27)] = true := by decide

theorem test_adc_ignores_decimal :
    let t := ran 0x69 0x01 0x00 ((State.reset.setA 0x09).setP 0x2C)
    t.a = 0x0A ∧ t.p = 0x2C := by decide

/-- By R117: no decimal correction. -/
theorem test_sbc_ignores_decimal :
    let t := ran 0xE9 0x01 0x00 ((State.reset.setA 0x10).setP 0x2D)
    t.a = 0x0F ∧ t.p = 0x2D := by decide

theorem test_cmp_rows :
    rowsHold 0xC9 [(0x10, 0x10, 0x24, 0x10, 0x27), (0x10, 0x20, 0x24, 0x10, 0xA4), (0x20, 0x10, 0x24, 0x20, 0x25), (0x00, 0xFF, 0x24, 0x00, 0x24), (0xFF, 0x00, 0x24, 0xFF, 0xA5), (0x80, 0x00, 0x24, 0x80, 0xA5), (0x00, 0x80, 0x24, 0x00, 0xA4), (0x7F, 0x80, 0x24, 0x7F, 0xA4), (0x01, 0x02, 0x24, 0x01, 0xA4)] = true := by decide

theorem test_cmp_keeps_v :
    let t := ran 0xC9 0x40 0x00 ((State.reset.setA 0x40).setP 0x64)
    t.a = 0x40 ∧ t.p = 0x67 := by decide

theorem test_cpx :
    let t := ran 0xE4 0x10 0x00 ((State.reset.setX 0x05).memWrite 0x0010 0x06)
    t.x = 0x05 ∧ t.p = 0xA4 := by decide

theorem test_cpy :
    let t := ran 0xCC 0x00 0x02 ((State.reset.setY 0x80).memWrite 0x0200 0x7F)
    t.y = 0x80 ∧ t.p = 0x25 := by decide

/-! ### Logic, 95_test_vectors.md 2.6 -/

theorem test_and :
    let t := ran 0x29 0x0F 0x00 (State.reset.setA 0xF0)
    t.a = 0x00 ∧ t.p = 0x26 := by decide

theorem test_ora :
    let t := ran 0x09 0x80 0x00 (State.reset.setA 0x01)
    t.a = 0x81 ∧ t.p = 0xA4 := by decide

theorem test_eor_zero :
    let t := ran 0x49 0xFF 0x00 (State.reset.setA 0xFF)
    t.a = 0x00 ∧ t.p = 0x26 := by decide

theorem test_eor_negative :
    let t := ran 0x49 0xFF 0x00 (State.reset.setA 0x0F)
    t.a = 0xF0 ∧ t.p = 0xA4 := by decide

theorem test_bit_sets_nvz :
    let t := ran 0x24 0x10 0x00 ((State.reset.setA 0x3F).memWrite 0x0010 0xC0)
    t.a = 0x3F ∧ t.p = 0xE6 := by decide

theorem test_bit_clears_nvz :
    let t := ran 0x2C 0x00 0x02 (((State.reset.setA 0xFF).setP 0xE4).memWrite 0x0200 0x01)
    t.a = 0xFF ∧ t.p = 0x24 := by decide

/-! ### Shifts, 95_test_vectors.md 2.7 -/

theorem test_asl_clears_c :
    let t := ran 0x0A 0x00 0x00 ((State.reset.setA 0x41).setP 0x25)
    t.a = 0x82 ∧ t.p = 0xA4 := by decide

theorem test_asl_memory :
    let t := ran 0x06 0x10 0x00 ((State.reset.setA 0x77).memWrite 0x0010 0xC1)
    t.memRead 0x0010 = 0x82 ∧ t.a = 0x77 ∧ t.p = 0xA5 := by decide

theorem test_lsr_to_zero :
    let t := ran 0x4A 0x00 0x00 (State.reset.setA 0x01)
    t.a = 0x00 ∧ t.p = 0x27 := by decide

theorem test_lsr_clears_n :
    let t := ran 0x4A 0x00 0x00 ((State.reset.setA 0x80).setP 0xA4)
    t.a = 0x40 ∧ t.p = 0x24 := by decide

theorem test_rol_carry_clear :
    let t := ran 0x2A 0x00 0x00 (State.reset.setA 0x80)
    t.a = 0x00 ∧ t.p = 0x27 := by decide

theorem test_rol_carry_set :
    let t := ran 0x2A 0x00 0x00 ((State.reset.setA 0x80).setP 0x25)
    t.a = 0x01 ∧ t.p = 0x25 := by decide

theorem test_ror_carry_set :
    let t := ran 0x6A 0x00 0x00 ((State.reset.setA 0x01).setP 0x25)
    t.a = 0x80 ∧ t.p = 0xA5 := by decide

theorem test_ror_memory :
    let t := ran 0x7E 0x00 0x03 (((State.reset.setX 0x01).setP 0x25).memWrite 0x0301 0x02)
    t.memRead 0x0301 = 0x81 ∧ t.p = 0xA4 := by decide

/-! ### Increments and decrements, 95_test_vectors.md 2.8 -/

theorem test_inc_wraps :
    let t := ran 0xE6 0x10 0x00 (State.reset.memWrite 0x0010 0xFF)
    t.memRead 0x0010 = 0x00 ∧ t.p = 0x26 := by decide

theorem test_inc_zeropage_x_wraps :
    let t := ran 0xF6 0xFF 0x00 ((State.reset.setX 0x11).memWrite 0x0010 0x7F)
    t.memRead 0x0010 = 0x80 ∧ t.p = 0xA4 := by decide

theorem test_dec_wraps :
    let t := ran 0xCE 0x00 0x02 State.reset
    t.memRead 0x0200 = 0xFF ∧ t.p = 0xA4 := by decide

theorem test_inx_keeps_cv :
    let t := ran 0xE8 0x00 0x00 ((State.reset.setX 0xFF).setP 0x65)
    t.x = 0x00 ∧ t.p = 0x67 := by decide

theorem test_iny :
    let t := ran 0xC8 0x00 0x00 (State.reset.setY 0x7F)
    t.y = 0x80 ∧ t.p = 0xA4 := by decide

theorem test_dex :
    let t := ran 0xCA 0x00 0x00 (State.reset.setX 0x01)
    t.x = 0x00 ∧ t.p = 0x26 := by decide

theorem test_dey :
    let t := ran 0x88 0x00 0x00 State.reset
    t.y = 0xFF ∧ t.p = 0xA4 := by decide

/-! ### Branches, 95_test_vectors.md 2.9: taken, then (by R191 to R198) not taken -/

theorem test_bcc :
    (ran 0x90 0x10 0x00 ((State.reset.setPc 0x0600).setP 0x24)).pc = 0x0612 ∧
    (ran 0x90 0x10 0x00 ((State.reset.setPc 0x0600).setP 0x25)).pc = 0x0602 := by decide

theorem test_bcs :
    (ran 0xB0 0x10 0x00 ((State.reset.setPc 0x0600).setP 0x25)).pc = 0x0612 ∧
    (ran 0xB0 0x10 0x00 ((State.reset.setPc 0x0600).setP 0x24)).pc = 0x0602 := by decide

theorem test_bne :
    (ran 0xD0 0xFD 0x00 ((State.reset.setPc 0x0603).setP 0x24)).pc = 0x0602 ∧
    (ran 0xD0 0xFD 0x00 ((State.reset.setPc 0x0603).setP 0x26)).pc = 0x0605 := by decide

theorem test_beq :
    (ran 0xF0 0x80 0x00 ((State.reset.setPc 0x0700).setP 0x26)).pc = 0x0682 ∧
    (ran 0xF0 0x80 0x00 ((State.reset.setPc 0x0700).setP 0x24)).pc = 0x0702 := by decide

theorem test_bpl :
    (ran 0x10 0x7F 0x00 ((State.reset.setPc 0x0600).setP 0x24)).pc = 0x0681 ∧
    (ran 0x10 0x7F 0x00 ((State.reset.setPc 0x0600).setP 0xA4)).pc = 0x0602 := by decide

theorem test_bmi :
    (ran 0x30 0x20 0x00 ((State.reset.setPc 0xFFF0).setP 0xA4)).pc = 0x0012 ∧
    (ran 0x30 0x20 0x00 ((State.reset.setPc 0xFFF0).setP 0x24)).pc = 0xFFF2 := by decide

theorem test_bvc :
    (ran 0x50 0xFE 0x00 ((State.reset.setPc 0x0600).setP 0x24)).pc = 0x0600 ∧
    (ran 0x50 0xFE 0x00 ((State.reset.setPc 0x0600).setP 0x64)).pc = 0x0602 := by decide

theorem test_bvs :
    (ran 0x70 0xF0 0x00 ((State.reset.setPc 0x0000).setP 0x64)).pc = 0xFFF2 ∧
    (ran 0x70 0xF0 0x00 ((State.reset.setPc 0x0000).setP 0x24)).pc = 0x0002 := by decide

/-! ### Jumps, calls and returns, 95_test_vectors.md 2.10 and 2.1 -/

theorem test_jmp_absolute :
    let t := ran 0x4C 0x00 0x07 State.reset
    t.pc = 0x0700 ∧ t.sp = 0xFD := by decide

theorem test_jmp_indirect_wraps_in_its_page :
    let t := ran 0x6C 0xFF 0x10 (((State.reset.memWrite 0x10FF 0x34).memWrite 0x1000 0x12).memWrite 0x1100 0x56)
    t.pc = 0x1234 := by decide

theorem test_jsr :
    let t := ran 0x20 0x00 0x07 State.reset
    t.pc = 0x0700 ∧ t.sp = 0xFB ∧ t.memRead 0x01FD = 0x06 ∧ t.memRead 0x01FC = 0x02 := by decide

theorem test_jsr_sp_wraps :
    let t := ran 0x20 0x00 0x07 (State.reset.setSp 0x00)
    t.sp = 0xFE ∧ t.memRead 0x0100 = 0x06 ∧ t.memRead 0x01FF = 0x02 := by decide

theorem test_rts :
    let t := ran 0x60 0x00 0x00 (withStack 0xFB 0x01FC 0x02 0x06 0x00)
    t.pc = 0x0603 ∧ t.sp = 0xFD := by decide

theorem test_rts_from_ffff :
    let t := ran 0x60 0x00 0x00 (withStack 0xFB 0x01FC 0xFF 0xFF 0x00)
    t.pc = 0x0000 ∧ t.sp = 0xFD := by decide

theorem test_rti :
    let t := ran 0x40 0x00 0x00 (withStack 0xFA 0x01FB 0xFF 0x34 0x12)
    t.p = 0xEF ∧ t.pc = 0x1234 ∧ t.sp = 0xFD := by decide

theorem test_rti_sp_wraps :
    let t := ran 0x40 0x00 0x00 (((State.reset.setSp 0xFE).memWrite 0x0100 0x78).memWrite 0x0101 0x56)
    t.p = 0x20 ∧ t.pc = 0x5678 ∧ t.sp = 0x01 := by decide

/-! ### Stack, flags and system, 95_test_vectors.md 2.11 and 2.12 -/

theorem test_pha_sp_wraps :
    let t := ran 0x48 0x00 0x00 ((State.reset.setA 0x99).setSp 0x00)
    t.memRead 0x0100 = 0x99 ∧ t.sp = 0xFF ∧ t.pc = 0x0601 := by decide

theorem test_php :
    let t := ran 0x08 0x00 0x00 State.reset
    t.memRead 0x01FD = 0x34 ∧ t.sp = 0xFC ∧ t.p = 0x24 := by decide

theorem test_php_all_flags :
    let t := ran 0x08 0x00 0x00 (State.reset.setP 0xEF)
    t.memRead 0x01FD = 0xFF ∧ t.p = 0xEF := by decide

theorem test_pla_sp_wraps :
    let t := ran 0x68 0x00 0x00 ((State.reset.setSp 0xFF).memWrite 0x0100 0x80)
    t.a = 0x80 ∧ t.sp = 0x00 ∧ t.p = 0xA4 := by decide

theorem test_plp_forces_b_clear :
    let t := ran 0x28 0x00 0x00 ((State.reset.setSp 0xFC).memWrite 0x01FD 0xFF)
    t.p = 0xEF ∧ t.sp = 0xFD := by decide

theorem test_plp_forces_u_set :
    let t := ran 0x28 0x00 0x00 ((State.reset.setSp 0xFC).memWrite 0x01FD 0x10)
    t.p = 0x20 := by decide

theorem test_clc :
    let t := ran 0x18 0x00 0x00 (State.reset.setP 0x25)
    t.p = 0x24 ∧ t.pc = 0x0601 := by decide

theorem test_sec :
    let t := ran 0x38 0x00 0x00 (State.reset.setP 0x24)
    t.p = 0x25 ∧ t.pc = 0x0601 := by decide

theorem test_cld :
    let t := ran 0xD8 0x00 0x00 (State.reset.setP 0x2C)
    t.p = 0x24 ∧ t.pc = 0x0601 := by decide

theorem test_sed :
    let t := ran 0xF8 0x00 0x00 (State.reset.setP 0x24)
    t.p = 0x2C ∧ t.pc = 0x0601 := by decide

theorem test_cli :
    let t := ran 0x58 0x00 0x00 (State.reset.setP 0x24)
    t.p = 0x20 ∧ t.pc = 0x0601 := by decide

theorem test_sei :
    let t := ran 0x78 0x00 0x00 (State.reset.setP 0x20)
    t.p = 0x24 ∧ t.pc = 0x0601 := by decide

theorem test_clv :
    let t := ran 0xB8 0x00 0x00 (State.reset.setP 0x64)
    t.p = 0x24 ∧ t.pc = 0x0601 := by decide

/-- The row with I = 0 before. -/
theorem test_brk :
    let t := ran 0x00 0x00 0x00 ((State.reset.setPc 0x0602).setP 0x20)
    t.memRead 0x01FD = 0x06 ∧ t.memRead 0x01FC = 0x03 ∧ t.memRead 0x01FB = 0x34 ∧
      t.sp = 0xFA ∧ t.pc = 0x0603 ∧ t.p = 0x24 ∧ t.ok = true := by decide

theorem test_brk_sp_wraps :
    let t := ran 0x00 0x00 0x00 ((State.reset.setSp 0x01).setPc 0x0602)
    t.memRead 0x0101 = 0x06 ∧ t.memRead 0x0100 = 0x03 ∧ t.memRead 0x01FF = 0x34 ∧ t.sp = 0xFE := by decide

/-- The rows BRK_LOADS_VECTOR and BRK_HALTS. -/
theorem test_brk_parameters :
    let s := (((State.reset.setPc 0x0602).memWrite 0xFFFE 0x00).memWrite 0xFFFF 0x80)
    (ranWith ⟨false, true, true⟩ 0 0 0 s).pc = 0x8000 ∧ (ranWith ⟨false, true, true⟩ 0 0 0 s).sp = 0xFA ∧
      (ranWith ⟨true, false, true⟩ 0 0 0 s).ok = false ∧ (ranWith ⟨true, false, true⟩ 0 0 0 s).sp = 0xFA := by decide

theorem test_nop :
    let t := ran 0xEA 0x00 0x00 State.reset
    t.pc = 0x0601 ∧ t.p = 0x24 ∧ t.ok = true := by decide

theorem test_null_entry_halts :
    let t := ran 0x80 0x05 0x00 State.reset
    t.pc = 0x0601 ∧ t.p = 0x24 ∧ t.ok = false := by decide

/-! ### The host's operations, 95_test_vectors.md 2.13 and scenario 1 -/

theorem test_load_program_bounds :
    hostCall Config.specValues (.loadAt [1, 2] 0xFFFF) State.reset = (.loadError, some State.reset) ∧
    hostCall Config.specValues (.loadAt [] 0xFFFF) State.reset = (.ok, some (State.reset.setPc 0xFFFF)) := by decide

theorem test_load_program_at_the_top :
    hostCall Config.specValues (.loadAt [1, 2] 0xFFFE) State.reset =
      (.ok, some ((State.reset.setMem [(0xFFFE, 1), (0xFFFF, 2)]).setPc 0xFFFE)) := by decide

theorem test_reset : hostCall Config.specValues .reset (((State.reset.setA 5).setPc 7).memWrite 9 1) = (.ok, some State.reset) := by decide

theorem test_outcome_codes :
    stepCode Config.specValues (State.reset.placeAtPc 0x02 0 0) = .haltUndoc ∧
    stepCode ⟨true, false, true⟩ State.reset = .haltBrk ∧ stepCode Config.specValues State.reset = .ok := by decide

/-- Writing the value an unlisted cell reads as unlists the cell. -/
theorem test_memory_canonical :
    ((State.reset.memWrite 5 1).memWrite 3 2).mem = [(3, 2), (5, 1)] ∧
    (((State.reset.memWrite 5 1).memWrite 3 2).memWrite 5 0).mem = [(3, 2)] := by decide

/-! ### Witnesses: states and operands that meet the hypotheses of each statement -/

/-- A cell at the top of memory, and two memories that read alike. -/
theorem witness_MemoryFormIsCanonical :
    Memory.wf [(0, 1), (65535, 2)] = true ∧ 65535 < 65536 ∧
      ∀ a, a < 65536 → Memory.read [(0, 1), (65535, 2)] a = Memory.read [(0, 1), (65535, 2)] a :=
  ⟨by decide, by decide, fun _ _ => rfl⟩

theorem witness_HandleOperationsByVariant :
    Handle.write .accumulator 0x05 State.reset = .ok (State.reset.setA 0x05) ∧
    Handle.write (.memory 0xFFFF) 0x05 State.reset = .ok (State.reset.memWrite 0xFFFF 0x05) := ⟨rfl, rfl⟩

/-- Instructions of one, two and three bytes. -/
theorem witness_DecodeOfEncodeIsTheInstruction :
    Instr.nop.wf = true ∧ (Instr.lda (.immediate 0xFF)).wf = true ∧ (Instr.jmp (.indirect 0xFFFF)).wf = true ∧
    (Instr.null 0xFF).wf = true := by decide

theorem witness_EncodeOfDecodeIsTheBytes :
    decode [0x20, 0x00, 0x07, 0x00] = .ok (.jsr (.absolute 0x0700), [0x00]) ∧ decode [0xFF] = .ok (.null 0xFF, []) := by decide

theorem witness_OpcodeByteAloneSelectsOperationAndMode :
    (decodeBytes 0xA9 0x05 0x00).length = 2 ∧ (decodeBytes 0xEA 0x00 0x00).length = 1 := by decide

theorem witness_StepRunsTheDecodedInstruction :
    let s := (State.reset.setPc 0xFFFF).placeAtPc 0xAD 0x00 0x05
    decode [s.memRead s.pc, s.memRead (s.pc + 1), s.memRead (s.pc + 2)] = .ok (.lda (.absolute 0x0500), []) := by decide

/-- A run that reaches a state other than its start. -/
theorem witness_EveryRunIsSafe : ∃ t, Reaches Config.specValues State.reset t ∧ t.pc ≠ State.reset.pc :=
  ⟨ran 0 0 0 State.reset, .step (.refl _) rfl, by decide⟩

theorem witness_EveryWellFormedInstructionCompletes : (Instr.sta (.indirectY 0x20)).wf = true := by decide

/-- Each list of the statement, an operand that resolves to no address, a flag with its value, and a fault. -/
theorem witness_MisusedHandlesRaiseInternalError :
    Instr.lda ∈ [Instr.lda] ∧ Instr.sta ∈ [Instr.sta] ∧ Instr.asl ∈ [Instr.asl] ∧ Instr.jmp ∈ [Instr.jmp] ∧
    (∀ addr, resolve .accumulator State.reset ≠ .memory addr) ∧ State.reset.flag .c = false ∧ State.reset.flag .i = true ∧
    exec (.lda .implicit) State.reset = .fault .readOfImplicit :=
  ⟨by simp, by simp, by simp, by simp, by intro _ h; (cases h), by decide, by decide, rfl⟩

/-- A branch whose flag has the value it tests, for both values. -/
theorem witness_MisusedHandles_branches :
    exec (.bcc .implicit) State.reset = .fault .targetOfNonMemory ∧
    exec (.bvs (.immediate 0)) (State.reset.setP 0x64) = .fault .targetOfNonMemory := by constructor <;> rfl

/-- One step for each clause of pcAfter: a plain one, both jumps, a call, the returns, a branch, BRK. -/
theorem witness_PcAfterAStep :
    (∃ t, stepWith Config.specValues (State.reset.placeAtPc 0xEA 0 0) = .next t) ∧
    (∃ t, stepWith Config.specValues (State.reset.placeAtPc 0x4C 0xFF 0xFF) = .next t) ∧
    (∃ t, stepWith Config.specValues (State.reset.placeAtPc 0x6C 0xFF 0x10) = .next t) ∧
    (∃ t, stepWith Config.specValues (State.reset.placeAtPc 0x20 0 7) = .next t) ∧
    (∃ t, stepWith Config.specValues (State.reset.placeAtPc 0x60 0 0) = .next t) ∧
    (∃ t, stepWith Config.specValues (State.reset.placeAtPc 0x40 0 0) = .next t) ∧
    (∃ t, stepWith Config.specValues (State.reset.placeAtPc 0x90 0x80 0) = .next t) ∧
    ∃ t, stepWith ⟨false, true, true⟩ State.reset = .next t :=
  ⟨⟨_, rfl⟩, ⟨_, rfl⟩, ⟨_, rfl⟩, ⟨_, rfl⟩, ⟨_, rfl⟩, ⟨_, rfl⟩, ⟨_, rfl⟩, _, rfl⟩

theorem witness_EveryStepKeepsTheInvariant :
    State.reset.Inv ∧ ∃ t, stepWith ⟨true, true, false⟩ State.reset = .next t := ⟨by decide, _, rfl⟩

/-- One state with U = 1 and B = 0, and one with U = 1 and B = 1, which no run reaches. -/
theorem witness_UnusedAndBreakBitsAreKeptApart :
    State.reset.flag .u = true ∧ State.reset.flag .b = false ∧ (State.reset.setP 0x30).flag .u = true ∧
    (∃ t, stepWith Config.specValues State.reset = .next t) ∧
    ∃ t, stepWith Config.specValues (State.reset.setP 0x30) = .next t :=
  ⟨by decide, by decide, by decide, ⟨_, rfl⟩, _, rfl⟩

/-- An instruction that writes nothing listed but PC's own advance, so that every clause applies. -/
theorem witness_OnlyListedInstructionsWrite :
    Instr.nop.wf = true ∧ (∃ t, exec .nop State.reset = .next t) ∧ writesA .nop = false ∧ writesX .nop = false ∧
    writesY .nop = false ∧ writesSp .nop = false ∧ writesFlag .c .nop = false ∧ writesMemory .nop = false ∧
    transfersControl .nop = false :=
  ⟨by decide, ⟨_, rfl⟩, by decide, by decide, by decide, by decide, by decide, by decide, by decide⟩

theorem witness_InterruptAndDecimalFlagsAreInert :
    (∃ t, exec .php State.reset = .next t) ∧ (∃ t, exec .brk State.reset = .next t) ∧
    ∃ t, exec (.adc (.immediate 0x09)) (State.reset.setA 0x09) = .next t := ⟨⟨_, rfl⟩, ⟨_, rfl⟩, _, rfl⟩

theorem witness_LoadsWriteTheRegisterAndNZ :
    (Instr.lda (.absoluteX 0xFFFF)).wf = true ∧ (Instr.ldx (.zeropageY 0xFF)).wf = true ∧ (Instr.ldy (.immediate 0)).wf = true := by decide

theorem witness_StoresWriteOneByteAndNoFlag :
    (Instr.sta (.indirectX 0xFF)).wf = true ∧ (Instr.stx (.zeropageY 0xFF)).wf = true ∧ (Instr.sty (.absolute 0)).wf = true ∧
    resolve (.absolute 0xFFFF) State.reset = .memory 0xFFFF := by decide

theorem witness_TransfersCopyARegister :
    ∃ (i : Instr) (src dst : Reg), (i, src, dst) ∈ [(Instr.tax, Reg.a, Reg.x), (Instr.tay, Reg.a, Reg.y),
      (Instr.tsx, Reg.sp, Reg.x), (Instr.txa, Reg.x, Reg.a), (Instr.tya, Reg.y, Reg.a)] := ⟨.tsx, .sp, .x, by simp⟩

theorem witness_AdcAddsOperandAndCarry : (Instr.adc (.immediate 0xFF)).wf = true := by decide

theorem witness_SbcSubtractsOperandAndBorrow : (Instr.sbc (.indirectY 0xFF)).wf = true := by decide

theorem witness_ComparesSetThreeFlags :
    (Instr.cmp (.indirectX 0)).wf = true ∧ (Instr.cpx (.immediate 0xFF)).wf = true ∧ (Instr.cpy (.absolute 0xFFFF)).wf = true := by decide

theorem witness_LogicCombinesBitByBit :
    (Instr.and (.immediate 0)).wf = true ∧ (Instr.ora (.zeropage 0xFF)).wf = true ∧ (Instr.eor (.absoluteY 0xFFFF)).wf = true := by decide

theorem witness_BitTestsWithoutWritingA : (Instr.bit (.zeropage 0xFF)).wf = true ∧ (Instr.bit (.absolute 0)).wf = true := by decide

/-- ASL of 0x80 and ROR with a carry in, in A; LSR of a memory byte 0. -/
theorem witness_ShiftsMoveOneBitThroughCarry :
    shiftRule .asl 128 0 (0, true) ∧ shiftRule .ror 255 1 (255, true) ∧
    resolve (.zeropage 0xFF) State.reset = .memory 0x00FF ∧ shiftRule .lsr 0 0 (0, false) :=
  ⟨.inl ⟨rfl, rfl⟩, .inr (.inr (.inr ⟨rfl, rfl⟩)), rfl, .inr (.inl ⟨rfl, rfl⟩)⟩

theorem witness_IncAndDecChangeOneByte :
    (Instr.inc (.absoluteX 0xFFFF)).wf = true ∧ (Instr.dec (.zeropage 0)).wf = true ∧
    resolve (.zeropage 0) State.reset = .memory 0 := by decide

theorem witness_RegisterStepsWrapAndSetNZ :
    ∃ (i : Instr) (dst : Reg) (k : Nat), (i, dst, k) ∈ [(Instr.inx, Reg.x, 1), (Instr.iny, Reg.y, 1),
      (Instr.dex, Reg.x, 255), (Instr.dey, Reg.y, 255)] := ⟨.dey, .y, 255, by simp⟩

/-- Taken and not taken, the offset at both ends of its range. -/
theorem witness_BranchesMovePcByTheSignedOffset :
    (Instr.bcs (.relative 0x80)).wf = true ∧ (Instr.bpl (.relative 0x7F)).wf = true ∧
    State.reset.flag .n = false ∧ State.reset.flag .c ≠ true := by decide

theorem witness_JmpGoesToItsTarget : (Instr.jmp (.absolute 0xFFFF)).wf = true ∧ (Instr.jmp (.indirect 0xFFFF)).wf = true := by decide

theorem witness_JsrPushesTheAddressOfItsLastByte : (Instr.jsr (.absolute 0x0700)).wf = true := by decide

/-- With SP at 0, so that the two slots wrap. -/
theorem witness_RtsReturnsToAfterTheJsr : ∃ t, exec (.jsr (.absolute 0x0700)) (State.reset.setSp 0) = .next t := ⟨_, rfl⟩

theorem witness_PhpThenPlpRestoresStatus : ∃ t, exec .php (State.reset.setSp 0) = .next t := ⟨_, rfl⟩

theorem witness_FlagInstructionsWriteOneFlag :
    ∃ (i : Instr) (f : Flag) (on : Bool), (i, f, on) ∈ [(Instr.clc, Flag.c, false), (Instr.sec, Flag.c, true),
      (Instr.cld, Flag.d, false), (Instr.sed, Flag.d, true), (Instr.cli, Flag.i, false), (Instr.sei, Flag.i, true),
      (Instr.clv, Flag.v, false)] := ⟨.clv, .v, false, by simp⟩

theorem witness_RtiReturnsFromBrk :
    (∃ t, execWith Config.specValues .brk (State.reset.setSp 1) = .next t) ∧
    ∃ t, execWith ⟨true, true, true⟩ .brk (State.reset.setP 0x20) = .next t := ⟨⟨_, rfl⟩, _, rfl⟩

theorem witness_NopOnlyAdvancesPc :
    let s := (State.reset.setPc 0xFFFF).placeAtPc 0xEA 0 0
    s.memRead s.pc = 0xEA := by decide

/-- The first and the last listed byte. -/
theorem witness_NullEntryHaltsWithOnlyPcMoved :
    ((State.reset.placeAtPc 0x02 0 0).memRead 0x0600).toNat ∈ nullOpcodes ∧
    ((State.reset.placeAtPc 0xFF 0 0).memRead 0x0600).toNat ∈ nullOpcodes := by decide

theorem witness_StepWritesExactlyItsAccesses :
    ∃ t, stepWith Config.specValues (State.reset.placeAtPc 0xE6 0x10 0) = .next t := ⟨_, rfl⟩

/-- Two states that differ in a cell that LDA $10 does not read. -/
theorem witness_StepReadsOnlyItsAccesses :
    let s := State.reset.placeAtPc 0xA5 0x10 0
    let s' := s.memWrite 0x3000 0x01
    SameRegisters s s' ∧ s'.mem ≠ s.mem ∧
      (∀ b, Access.read b ∈ stepAccesses Config.specValues s → s'.memRead b = s.memRead b) ∧
      ∃ t, stepWith Config.specValues s = .next t := by
  refine ⟨⟨fun r => by cases r <;> rfl, rfl, rfl⟩, by decide, ?_, _, rfl⟩
  intro b hb
  have h : stepAccesses Config.specValues (State.reset.placeAtPc 0xA5 0x10 0) =
      [.read 0x0600, .read 0x0601, .read 0x0010] := by decide
  rw [h] at hb
  simp only [List.mem_cons, Access.read.injEq, List.not_mem_nil, or_false] at hb
  rcases hb with rfl | rfl | rfl <;> decide

/-- The last offset that fails and the last that fits. -/
theorem witness_LoadProgramCopiesTheBytes :
    65536 < (0xFFFF : Addr).toNat + [(1 : Byte), 2].length ∧ (0xFFFE : Addr).toNat + [(1 : Byte), 2].length ≤ 65536 := by decide

/-- An ending at the launch boundary, one after a step by the host's stop, one by a step that returned
false; and a run whose fuel is spent before any ending. -/
theorem witness_RunsEndByTheConvention :
    EndsAt Config.specValues State.reset 0 State.reset ∧
    EndsAt Config.specValues (State.reset.placeAtPc 0xA9 0x05 0x00) 1 (ran 0xA9 0x05 0x00 State.reset) ∧
    EndsAt Config.specValues (State.reset.placeAtPc 0x02 0x05 0x00) 1 (ran 0x02 0x05 0x00 State.reset) ∧
    runToEnd Config.specValues 0 (State.reset.placeAtPc 0xEA 0xEA 0xEA) =
      .outOfFuel (State.reset.placeAtPc 0xEA 0xEA 0xEA) := by
  unfold EndsAt
  decide

/-- The run of scenario 1 (95_test_vectors.md 1.3) ends after one step, and one at a null entry after its step. -/
theorem test_run_ends :
    runToEnd Config.specValues 2 (State.reset.placeAtPc 0xA9 0x05 0x00) = .ended (ran 0xA9 0x05 0x00 State.reset) 1 ∧
    runToEnd Config.specValues 1 (State.reset.placeAtPc 0x02 0x05 0x00) = .ended (ran 0x02 0x05 0x00 State.reset) 1 := by
  decide

/-- Both ends of the range, and one past the upper end. -/
theorem witness_BranchOffsetReachesItsTarget :
    (State.reset.setPc 0x0002).pc = (0x0000 : Addr) + 2 ∧ branchOffset 0x0000 0x0081 = some 0x7F ∧
    branchOffset 0x0000 0xFF82 = some 0x80 ∧ branchOffset 0x0000 0x0082 = none := by decide

end Sys2Proof.Tests
end

/-! PROOFS of the statements about the state (10_state.md): facts about memory, the decoder and the trap. -/

namespace Sys2Proof.Machine

/-! ### The canonical memory is unique -/

theorem Memory.read_cons_self (a : Nat) (v : Byte) (m : Memory) : Memory.read ((a, v) :: m) a = v :=
  if_pos rfl

theorem Memory.read_cons_of_ne {a b : Nat} (h : a ≠ b) (v : Byte) (m : Memory) :
    Memory.read ((a, v) :: m) b = m.read b :=
  if_neg h

/-- Of two canonical memories that read alike, neither lists an address below the other's first one. -/
theorem Memory.head_le_of_read_eq {a b : Nat} {v w : Byte} {m n : Memory}
    (hm : Memory.wf ((a, v) :: m) = true) (hn : Memory.wf ((b, w) :: n) = true)
    (h : ∀ k, k < 65536 → Memory.read ((a, v) :: m) k = Memory.read ((b, w) :: n) k) : b ≤ a := by
  obtain ⟨hv, ha, -, -⟩ := Memory.wf_cons.1 hm
  obtain ⟨-, -, hall, -⟩ := Memory.wf_cons.1 hn
  by_contra hlt
  have hunlisted : Memory.read ((b, w) :: n) a = 0 := by
    refine Memory.read_of_lt fun c hc => ?_
    rcases List.mem_cons.1 hc with rfl | hc
    · exact Nat.lt_of_not_le hlt
    · exact (Nat.lt_of_not_le hlt).trans (hall c hc)
  have hread := h a ha
  rw [Memory.read_cons_self, hunlisted] at hread
  exact hv hread

/-- A canonical memory that lists a cell does not read like the empty one. -/
theorem Memory.exists_read_cons_ne_nil {a : Nat} {v : Byte} {m : Memory} (hm : Memory.wf ((a, v) :: m) = true) :
    ∃ k, k < 65536 ∧ Memory.read ((a, v) :: m) k ≠ Memory.read [] k := by
  obtain ⟨hv, ha, -, -⟩ := Memory.wf_cons.1 hm
  exact ⟨a, ha, (Memory.read_cons_self a v m).trans_ne hv⟩

/-- The canonical form is unique: it lists a memory's cells in one way only. -/
theorem Memory.eq_of_read_eq {m n : Memory} (hm : m.wf = true) (hn : n.wf = true)
    (h : ∀ k, k < 65536 → Memory.read m k = Memory.read n k) : m = n := by
  induction m generalizing n with
  | nil =>
    cases n with
    | nil => rfl
    | cons d n =>
      obtain ⟨k, hk, hne⟩ := Memory.exists_read_cons_ne_nil hn
      exact absurd (h k hk).symm hne
  | cons c m ih =>
    obtain ⟨a, v⟩ := c
    cases n with
    | nil =>
      obtain ⟨k, hk, hne⟩ := Memory.exists_read_cons_ne_nil hm
      exact absurd (h k hk) hne
    | cons d n =>
      obtain ⟨b, w⟩ := d
      obtain rfl : a = b :=
        le_antisymm (Memory.head_le_of_read_eq hn hm fun k hk => (h k hk).symm)
          (Memory.head_le_of_read_eq hm hn h)
      obtain ⟨-, ha, hallm, hmr⟩ := Memory.wf_cons.1 hm
      obtain ⟨-, -, halln, hnr⟩ := Memory.wf_cons.1 hn
      have hvw : v = w := by
        simpa only [Memory.read_cons_self] using h a ha
      have hrest : ∀ k, k < 65536 → Memory.read m k = Memory.read n k := by
        intro k hk
        by_cases hak : a = k
        · subst hak
          rw [Memory.read_of_lt hallm, Memory.read_of_lt halln]
        · simpa only [Memory.read_cons_of_ne hak] using h k hk
      rw [hvw, ih hmr hnr hrest]

/-! ### The decoder makes well-formed instructions only -/

theorem Mode.mode_withBytes (m : Mode) (b1 b2 : Byte) : (m.withBytes b1 b2).mode = m := by
  cases m <;> rfl

/-- The grid of R73 gives an operation only the modes that its rule's Encodings entry lists. -/
theorem decodeEntry_modes_legal (op : Byte) : (decodeEntry op).all (fun e => e.1.legalModes.contains e.2) = true := by
  revert op; decide +kernel

/-- The grid's null entries are among the undocumented opcodes of R74. -/
theorem nullOpcodes_of_decodeEntry_none (op : Byte) :
    decodeEntry op = none → nullOpcodes.contains op.toNat = true := by
  revert op; decide +kernel

theorem Operand.eq_implicit_of_mode {m : Operand} (h : m.mode = .implicit) : m = .implicit := by
  cases m <;> simp [Operand.mode] at h ⊢

/-- An operation that has more than the Implicit mode keeps the operand it is given. -/
theorem Operation.parts_withOperand_of_ne {o : Operation} (h : o.legalModes ≠ [.implicit]) (m : Operand) :
    (o.withOperand m).parts = .inr (o, m) := by
  cases o <;> simp [Operation.legalModes] at h <;> rfl

theorem Operation.parts_withOperand {o : Operation} {m : Operand} (h : o.legalModes.contains m.mode = true) :
    (o.withOperand m).parts = .inr (o, m) := by
  by_cases ho : o.legalModes = [.implicit]
  · rw [ho] at h
    rw [Operand.eq_implicit_of_mode (m := m) (by simpa using h)]
    cases o <;> rfl
  · exact Operation.parts_withOperand_of_ne ho m

/-- The instruction that a fetch decodes is well-formed (R73, R74). -/
theorem decodeBytes_wf (op b1 b2 : Byte) : (decodeBytes op b1 b2).wf = true := by
  unfold decodeBytes
  cases hentry : decodeEntry op with
  | none => exact nullOpcodes_of_decodeEntry_none op hentry
  | some entry =>
    obtain ⟨o, m⟩ := entry
    have hlegal := decodeEntry_modes_legal op
    have hm : o.legalModes.contains (m.withBytes b1 b2).mode = true := by
      rwa [hentry, Option.all_some, ← Mode.mode_withBytes m b1 b2] at hlegal
    simpa only [Instr.wf, Operation.parts_withOperand hm] using hm

theorem State.fetchInstr_wf (s : State) : s.fetchInstr.wf = true := decodeBytes_wf _ _ _

/-! ### Operands that stand for the accumulator -/

theorem resolve_eq_accumulator {m : Operand} {s : State} : resolve m s = .accumulator ↔ m = .accumulator := by
  cases m <;> simp [resolve]

/-- A well-formed instruction has no Accumulator operand if its operation lacks that mode. -/
theorem ne_accumulator_of_wf {i : Instr} {o : Operation} {m : Operand} (hparts : i.parts = .inr (o, m))
    (ho : o.legalModes.contains .accumulator = false) (hwf : i.wf = true) : m ≠ .accumulator := by
  rintro rfl
  rw [Instr.wf, hparts] at hwf
  exact Bool.false_ne_true (ho.symm.trans hwf)

/-! ### BRK's trap and the flags -/

/-- BRK's trap writes I and no other flag of P (R21, R22). -/
theorem State.flag_enterBreak (s : State) (c : Config) {f : Flag} (hf : f ≠ .i) :
    (s.enterBreak c).flag f = s.flag f := by
  rw [State.flag, State.enterBreak_p, putFlag_getLsbD, if_neg hf, State.flag]

end Sys2Proof.Machine

namespace Sys2Proof.Claims

open Sys2Proof.Machine

/-! ### What a step can do: updates that the rules list the instruction as a writer for -/

/-- `t` is reached from `s` by single updates, each of a piece of state that the rules list `i` as a writer of
(10_state.md R11 to R24, 20_memory.md R59). No single flag update is of U or B: R21 and R22 let only a pull of
P write them. -/
inductive ListedUpdates (i : Instr) (s : State) : State → Prop where
  | refl : ListedUpdates i s s
  | setA {t : State} (v : Byte) : ListedUpdates i s t → writesA i = true → ListedUpdates i s (t.setA v)
  | setX {t : State} (v : Byte) : ListedUpdates i s t → writesX i = true → ListedUpdates i s (t.setX v)
  | setY {t : State} (v : Byte) : ListedUpdates i s t → writesY i = true → ListedUpdates i s (t.setY v)
  | setSp {t : State} (v : Byte) : ListedUpdates i s t → writesSp i = true → ListedUpdates i s (t.setSp v)
  | setPc {t : State} (w : Addr) : ListedUpdates i s t → transfersControl i = true → ListedUpdates i s (t.setPc w)
  | setFlag {t : State} (f : Flag) (on : Bool) (h : ListedUpdates i s t) (hw : writesFlag f i = true)
      (hu : f ≠ .u := by decide) (hb : f ≠ .b := by decide) : ListedUpdates i s (t.setFlag f on)
  | pullP {t : State} (v : Byte) :
      ListedUpdates i s t → (∀ f, writesFlag f i = true) → ListedUpdates i s (t.setP (pulledStatus v))
  | memWrite {t : State} (b : Addr) (v : Byte) :
      ListedUpdates i s t → writesMemory i = true → ListedUpdates i s (t.memWrite b v)
  | setOk {t : State} (b : Bool) : ListedUpdates i s t → ListedUpdates i s (t.setOk b)

namespace ListedUpdates

variable {i : Instr} {s t : State}

/-! What listed updates leave unchanged. -/

theorem frame (h : ListedUpdates i s t) :
    (writesA i = false → t.a = s.a) ∧ (writesX i = false → t.x = s.x) ∧ (writesY i = false → t.y = s.y) ∧
    (writesSp i = false → t.sp = s.sp) ∧ (writesMemory i = false → t.mem = s.mem) ∧
    (transfersControl i = false → t.pc = s.pc) := by
  induction h with
  | refl => simp
  | setA v _ hw ih | setX v _ hw ih | setY v _ hw ih | setSp v _ hw ih | setPc w _ hw ih | memWrite b v _ hw ih =>
    simpa [hw] using ih
  | setFlag f on _ _ _ _ ih | pullP v _ _ ih | setOk b _ ih => exact ih

theorem flag_eq (h : ListedUpdates i s t) {f : Flag} (hw : writesFlag f i = false) : t.flag f = s.flag f := by
  induction h with
  | setFlag g on _ hlisted _ _ ih =>
    have hgf : g ≠ f := by rintro rfl; simp [hw] at hlisted
    rw [State.flag_setFlag, if_neg hgf.symm, ih]
  | pullP v _ hlisted => exact absurd ((hlisted f).symm.trans hw) (by decide)
  | refl => rfl
  | _ => assumption

/-! What they keep, whatever `i` is listed for. -/

theorem mem_wf (h : ListedUpdates i s t) (hs : s.mem.wf = true) : t.mem.wf = true := by
  induction h with
  | memWrite b v _ _ ih => exact State.memWrite_wf ih b v
  | refl => exact hs
  | _ => assumption

theorem flag_u (h : ListedUpdates i s t) (hs : s.flag .u = true) : t.flag .u = true := by
  induction h with
  | setFlag g on _ _ hu _ ih => rw [State.flag_setFlag, if_neg hu.symm, ih]
  | pullP v => exact pulledStatus_getLsbD v .u
  | refl => exact hs
  | _ => assumption

theorem flag_b (h : ListedUpdates i s t) (hs : s.flag .b = false) : t.flag .b = false := by
  induction h with
  | setFlag g on _ _ _ hb ih => rw [State.flag_setFlag, if_neg hb.symm, ih]
  | pullP v => exact pulledStatus_getLsbD v .b
  | refl => exact hs
  | _ => assumption

/-! The shared operations, as sequences of listed updates. -/

theorem setNZ (v : Byte) (h : ListedUpdates i s t) (hz : writesFlag .z i = true) (hn : writesFlag .n i = true) :
    ListedUpdates i s (t.setNZ v) :=
  (h.setFlag .z _ hz).setFlag .n _ hn

theorem compare (r m : Byte) (h : ListedUpdates i s t) (hc : writesFlag .c i = true) (hz : writesFlag .z i = true)
    (hn : writesFlag .n i = true) : ListedUpdates i s (t.compare r m) :=
  ((h.setFlag .c _ hc).setFlag .z _ hz).setFlag .n _ hn

theorem takeSum (o : AddOut) (h : ListedUpdates i s t) (ha : writesA i = true) (hc : writesFlag .c i = true)
    (hv : writesFlag .v i = true) (hz : writesFlag .z i = true) (hn : writesFlag .n i = true) :
    ListedUpdates i s (t.takeSum o) :=
  (((h.setA o.r ha).setFlag .c _ hc).setFlag .v _ hv).setNZ o.r hz hn

theorem push (v : Byte) (h : ListedUpdates i s t) (hm : writesMemory i = true) (hsp : writesSp i = true) :
    ListedUpdates i s (t.push v) :=
  (h.memWrite _ v hm).setSp _ hsp

theorem push16 (w : Addr) (h : ListedUpdates i s t) (hm : writesMemory i = true) (hsp : writesSp i = true) :
    ListedUpdates i s (t.push16 w) :=
  (h.push _ hm hsp).push _ hm hsp

theorem pop (h : ListedUpdates i s t) (hsp : writesSp i = true) : ListedUpdates i s t.pop.2 :=
  h.setSp _ hsp

theorem pop16 (h : ListedUpdates i s t) (hsp : writesSp i = true) : ListedUpdates i s t.pop16.2 :=
  (h.pop hsp).pop hsp

theorem handleWrite {m : Operand} {v : Byte} {r u : State} (h : ListedUpdates i s t)
    (hacc : m = .accumulator → writesA i = true) (hmem : m ≠ .accumulator → writesMemory i = true)
    (hw : (resolve m r).write v t = .ok u) : ListedUpdates i s u := by
  rcases Handle.write_ok hw with ⟨hr, rfl⟩ | ⟨b, hr, rfl⟩
  · exact h.setA v (hacc (resolve_eq_accumulator.1 hr))
  · exact h.memWrite b v (hmem fun hm => by simp [resolve_eq_accumulator.2 hm] at hr)

/-! The outcomes and the operand forms: a next state they answer is reached by listed updates. -/

theorem of_complete {u : State} (h : ListedUpdates i s u) (hn : complete u = .next t) : ListedUpdates i s t := by
  rw [complete_next.1 hn]; exact h.setOk true

theorem of_withValue {m : Operand} {k : Byte → State} (h : ∀ v, ListedUpdates i s (k v))
    (hn : withValue m s k = .next t) : ListedUpdates i s t := by
  obtain ⟨v, -, rfl⟩ := withValue_next.1 hn
  exact (h v).setOk true

theorem of_storeValue {m : Operand} {v : Byte} (hacc : m ≠ .accumulator) (hmem : writesMemory i = true)
    (hn : storeValue m v s = .next t) : ListedUpdates i s t := by
  obtain ⟨u, hu, rfl⟩ := storeValue_next.1 hn
  exact (refl.handleWrite (absurd · hacc) (fun _ => hmem) hu).setOk true

theorem of_adjustOperand {m : Operand} {g : Byte → Byte} (hacc : m ≠ .accumulator) (hmem : writesMemory i = true)
    (hz : writesFlag .z i = true) (hneg : writesFlag .n i = true) (hn : adjustOperand m g s = .next t) :
    ListedUpdates i s t := by
  obtain ⟨v, u, -, hu, rfl⟩ := adjustOperand_next.1 hn
  exact ((refl.handleWrite (absurd · hacc) (fun _ => hmem) hu).setNZ _ hz hneg).setOk true

theorem of_shiftOperand {m : Operand} {g : Byte → Byte × Bool} (hacc : writesA i = decide (m = .accumulator))
    (hmem : writesMemory i = decide (m ≠ .accumulator)) (hc : writesFlag .c i = true) (hz : writesFlag .z i = true)
    (hneg : writesFlag .n i = true) (hn : shiftOperand m g s = .next t) : ListedUpdates i s t := by
  obtain ⟨v, u, -, hu, rfl⟩ := shiftOperand_next.1 hn
  have hcarry : ListedUpdates i s (s.setFlag .c (g v).2) := refl.setFlag .c _ hc
  exact ((hcarry.handleWrite (by simp [hacc]) (by simp [hmem]) hu).setNZ _ hz hneg).setOk true

theorem of_withTarget {m : Operand} {k : Addr → State} (h : ∀ a, ListedUpdates i s (k a))
    (hn : withTarget m s k = .next t) : ListedUpdates i s t := by
  obtain ⟨a, -, rfl⟩ := withTarget_next.1 hn
  exact (h a).setOk true

theorem of_branchIf {m : Operand} {cond : Bool} (hpc : transfersControl i = true)
    (hn : branchIf cond m s = .next t) : ListedUpdates i s t := by
  rcases branchIf_next.1 hn with ⟨-, rfl⟩ | ⟨-, a, -, rfl⟩
  · exact refl.setOk true
  · exact (refl.setPc a hpc).setOk true

end ListedUpdates

open ListedUpdates in
/-- Every meaning is a sequence of updates that the rules list its instruction for. -/
theorem exec_listedUpdates {i : Instr} {s t : State} (hwf : i.wf = true) (h : exec i s = .next t) :
    ListedUpdates i s t := by
  cases i with
  | lda m => exact of_withValue (fun v => (refl.setA v rfl).setNZ v rfl rfl) h
  | ldx m => exact of_withValue (fun v => (refl.setX v rfl).setNZ v rfl rfl) h
  | ldy m => exact of_withValue (fun v => (refl.setY v rfl).setNZ v rfl rfl) h
  | sta m | stx m | sty m => exact of_storeValue (ne_accumulator_of_wf rfl rfl hwf) rfl h
  | tax | tsx | inx | dex => exact of_complete ((refl.setX _ rfl).setNZ _ rfl rfl) h
  | tay | iny | dey => exact of_complete ((refl.setY _ rfl).setNZ _ rfl rfl) h
  | txa | tya => exact of_complete ((refl.setA _ rfl).setNZ _ rfl rfl) h
  | txs => exact of_complete (refl.setSp _ rfl) h
  | adc m | sbc m => exact of_withValue (fun v => refl.takeSum _ rfl rfl rfl rfl rfl) h
  | cmp m | cpx m | cpy m => exact of_withValue (fun v => refl.compare _ v rfl rfl rfl) h
  | and m | ora m | eor m => exact of_withValue (fun v => (refl.setA _ rfl).setNZ _ rfl rfl) h
  | bit m =>
    exact of_withValue (fun v => ((refl.setFlag .z _ rfl).setFlag .n _ rfl).setFlag .v _ rfl) h
  | asl m | lsr m | rol m | ror m => exact of_shiftOperand rfl rfl rfl rfl rfl h
  | inc m | dec m => exact of_adjustOperand (ne_accumulator_of_wf rfl rfl hwf) rfl rfl rfl h
  | bcc m | bcs m | bne m | beq m | bpl m | bmi m | bvc m | bvs m => exact of_branchIf rfl h
  | jmp m => exact of_withTarget (fun a => refl.setPc a rfl) h
  | jsr m => exact of_withTarget (fun a => (refl.push16 _ rfl rfl).setPc a rfl) h
  | rts => exact of_complete ((refl.pop16 rfl).setPc _ rfl) h
  | rti => exact of_complete ((((refl.pop rfl).pullP _ fun f => by cases f <;> rfl).pop16 rfl).setPc _ rfl) h
  | pha | php => exact of_complete (refl.push _ rfl rfl) h
  | pla => exact of_complete (((refl.pop rfl).setA _ rfl).setNZ _ rfl rfl) h
  | plp => exact of_complete ((refl.pop rfl).pullP _ fun f => by cases f <;> rfl) h
  | clc | sec | cld | sed | cli | sei | clv => exact of_complete (refl.setFlag _ _ rfl) h
  | brk => exact of_complete (((refl.setFlag .i true rfl).push16 _ rfl rfl).push _ rfl rfl) h
  | nop => exact of_complete refl h
  | null op => rw [halt_next.1 h]; exact refl.setOk false

/-- What a step under any parameters can do: take BRK's trap, or run the listed updates of the fetched
instruction, with PC past its bytes (30_encoding.md R92). -/
theorem stepWith_cases {c : Config} {s t : State} (h : stepWith c s = .next t) :
    (s.fetchInstr = .brk ∧ ∃ ok, t = ((s.advancePast .brk).enterBreak c).setOk ok) ∨
    (s.fetchInstr ≠ .brk ∧ ListedUpdates s.fetchInstr (s.advancePast s.fetchInstr) t) := by
  unfold stepWith execWith at h
  by_cases hbrk : s.fetchInstr = .brk
  · rw [if_pos hbrk, hbrk] at h
    unfold execBrkWith at h
    split at h
    · exact .inl ⟨hbrk, false, halt_next.1 h⟩
    · exact .inl ⟨hbrk, true, complete_next.1 h⟩
  · rw [if_neg hbrk] at h
    exact .inr ⟨hbrk, exec_listedUpdates s.fetchInstr_wf h⟩

theorem stepWith_mem_wf {c : Config} {s t : State} (h : stepWith c s = .next t) (hs : s.mem.wf = true) :
    t.mem.wf = true := by
  rcases stepWith_cases h with ⟨-, ok, rfl⟩ | ⟨-, hlisted⟩
  · exact State.enterBreak_wf (s := s.advancePast .brk) hs c
  · exact hlisted.mem_wf hs

theorem stepWith_flag_u {c : Config} {s t : State} (h : stepWith c s = .next t) (hs : s.flag .u = true) :
    t.flag .u = true := by
  rcases stepWith_cases h with ⟨-, ok, rfl⟩ | ⟨-, hlisted⟩
  · exact (State.flag_enterBreak (s.advancePast .brk) c (by decide)).trans hs
  · exact hlisted.flag_u hs

theorem stepWith_flag_b {c : Config} {s t : State} (h : stepWith c s = .next t) (hs : s.flag .b = false) :
    t.flag .b = false := by
  rcases stepWith_cases h with ⟨-, ok, rfl⟩ | ⟨-, hlisted⟩
  · exact (State.flag_enterBreak (s.advancePast .brk) c (by decide)).trans hs
  · exact hlisted.flag_b hs

/-! ### Two runs that differ in one flag -/

/-- The registers, PC, the outcome bit and every flag but `f` agree; memory and `f` are left open. -/
structure AgreeRegisters (f : Flag) (s s' : State) : Prop where
  a : s'.a = s.a
  x : s'.x = s.x
  y : s'.y = s.y
  sp : s'.sp = s.sp
  pc : s'.pc = s.pc
  ok : s'.ok = s.ok
  flag : ∀ g, g ≠ f → s'.flag g = s.flag g

/-- The states differ in the flag `f` at most. -/
structure AgreeBut (f : Flag) (s s' : State) : Prop extends AgreeRegisters f s s' where
  mem : s'.mem = s.mem

/-- The states differ in the flag `f` and the byte at `b` at most. -/
structure AgreeButCell (f : Flag) (b : Addr) (s s' : State) : Prop extends AgreeRegisters f s s' where
  memRead : ∀ c, c ≠ b → s'.memRead c = s.memRead c

/-- If the first result is a next state, so is the second, and the two differ in `f` at most. -/
def AnswersBut (f : Flag) (r r' : Result) : Prop :=
  ∀ t, r = .next t → ∃ u, r' = .next u ∧ AgreeBut f t u

theorem AgreeRegisters.get {f : Flag} {s s' : State} (h : AgreeRegisters f s s') (r : Reg) : r.get s' = r.get s := by
  cases r
  · exact h.a
  · exact h.x
  · exact h.y
  · exact h.sp

theorem agreeBut_setFlag (f : Flag) (s : State) (on : Bool) : AgreeBut f s (s.setFlag f on) where
  a := rfl
  x := rfl
  y := rfl
  sp := rfl
  pc := rfl
  ok := rfl
  mem := rfl
  flag g hg := by rw [State.flag_setFlag, if_neg hg]

namespace AgreeBut

variable {f : Flag} {s s' : State}

/-! The same update of both states. -/

theorem setA {v v' : Byte} (h : AgreeBut f s s') (hv : v' = v) : AgreeBut f (s.setA v) (s'.setA v') :=
  { h with a := hv }

theorem setX {v v' : Byte} (h : AgreeBut f s s') (hv : v' = v) : AgreeBut f (s.setX v) (s'.setX v') :=
  { h with x := hv }

theorem setY {v v' : Byte} (h : AgreeBut f s s') (hv : v' = v) : AgreeBut f (s.setY v) (s'.setY v') :=
  { h with y := hv }

theorem setSp {v v' : Byte} (h : AgreeBut f s s') (hv : v' = v) : AgreeBut f (s.setSp v) (s'.setSp v') :=
  { h with sp := hv }

theorem setPc {w w' : Addr} (h : AgreeBut f s s') (hw : w' = w) : AgreeBut f (s.setPc w) (s'.setPc w') :=
  { h with pc := hw }

theorem setP {v v' : Byte} (h : AgreeBut f s s') (hv : v' = v) : AgreeBut f (s.setP v) (s'.setP v') :=
  { h with flag := fun g _ => State.flag_congr hv g }

theorem setOk (b : Bool) (h : AgreeBut f s s') : AgreeBut f (s.setOk b) (s'.setOk b) :=
  { h with ok := rfl }

theorem setFlag (g : Flag) {on on' : Bool} (h : AgreeBut f s s') (hon : on' = on) :
    AgreeBut f (s.setFlag g on) (s'.setFlag g on') :=
  { h with flag := fun k hk => by rw [State.flag_setFlag, State.flag_setFlag, hon, h.flag k hk] }

theorem setNZ {v v' : Byte} (h : AgreeBut f s s') (hv : v' = v) : AgreeBut f (s.setNZ v) (s'.setNZ v') :=
  (h.setFlag .z (by rw [hv])).setFlag .n (by rw [hv])

theorem compare {r r' : Byte} (m : Byte) (h : AgreeBut f s s') (hr : r' = r) :
    AgreeBut f (s.compare r m) (s'.compare r' m) :=
  ((h.setFlag .c (by rw [hr])).setFlag .z (by rw [hr])).setFlag .n (by rw [hr])

theorem takeSum {o o' : AddOut} (h : AgreeBut f s s') (ho : o' = o) : AgreeBut f (s.takeSum o) (s'.takeSum o') :=
  (((h.setA (by rw [ho])).setFlag .c (by rw [ho])).setFlag .v (by rw [ho])).setNZ (by rw [ho])

theorem memWrite {b b' : Addr} {v v' : Byte} (h : AgreeBut f s s') (hb : b' = b) (hv : v' = v) :
    AgreeBut f (s.memWrite b v) (s'.memWrite b' v') :=
  { h with mem := by simp only [State.memWrite, State.setMem_mem, h.mem, hb, hv] }

theorem push {v v' : Byte} (h : AgreeBut f s s') (hv : v' = v) : AgreeBut f (s.push v) (s'.push v') :=
  (h.memWrite (congrArg stackAddr h.sp) hv).setSp (by rw [h.sp])

theorem push16 {w w' : Addr} (h : AgreeBut f s s') (hw : w' = w) : AgreeBut f (s.push16 w) (s'.push16 w') :=
  (h.push (by rw [hw])).push (by rw [hw])

/-! The same reads of both states. -/

theorem memRead_eq (h : AgreeBut f s s') (b : Addr) : s'.memRead b = s.memRead b :=
  State.memRead_congr h.mem b

theorem read16_eq (h : AgreeBut f s s') (lo hi : Addr) : s'.read16 lo hi = s.read16 lo hi := by
  rw [State.read16, h.memRead_eq, h.memRead_eq, State.read16]

theorem pop_fst (h : AgreeBut f s s') : s'.pop.1 = s.pop.1 := by
  rw [State.pop, h.sp, h.memRead_eq, State.pop]

theorem pop_snd (h : AgreeBut f s s') : AgreeBut f s.pop.2 s'.pop.2 :=
  h.setSp (by rw [h.sp])

theorem pop16_fst (h : AgreeBut f s s') : s'.pop16.1 = s.pop16.1 := by
  rw [State.pop16, h.pop_fst, h.pop_snd.pop_fst, State.pop16]

theorem pop16_snd (h : AgreeBut f s s') : AgreeBut f s.pop16.2 s'.pop16.2 :=
  h.pop_snd.pop_snd

theorem resolve_eq (h : AgreeBut f s s') (m : Operand) : resolve m s' = resolve m s := by
  cases m <;> simp only [resolve, h.x, h.y, h.pc, h.read16_eq]

theorem handleRead_eq (h : AgreeBut f s s') (d : Handle) : d.read s' = d.read s := by
  cases d <;> simp only [Handle.read, h.a, h.memRead_eq]

theorem handleWrite {d : Handle} {v : Byte} {t : State} (h : AgreeBut f s s') (hw : d.write v s = .ok t) :
    ∃ u, d.write v s' = .ok u ∧ AgreeBut f t u := by
  rcases Handle.write_ok hw with ⟨rfl, rfl⟩ | ⟨b, rfl, rfl⟩
  · exact ⟨_, rfl, h.setA rfl⟩
  · exact ⟨_, rfl, h.memWrite rfl rfl⟩

/-! The same outcome or operand form of both states. -/

theorem complete (h : AgreeBut f s s') : AnswersBut f (complete s) (complete s') := fun _ ht =>
  ⟨_, rfl, complete_next.1 ht ▸ h.setOk true⟩

theorem halt (h : AgreeBut f s s') : AnswersBut f (halt s) (halt s') := fun _ ht =>
  ⟨_, rfl, halt_next.1 ht ▸ h.setOk false⟩

theorem withValue {m : Operand} {k k' : Byte → State} (h : AgreeBut f s s') (hk : ∀ v, AgreeBut f (k v) (k' v)) :
    AnswersBut f (withValue m s k) (withValue m s' k') := by
  intro t ht
  obtain ⟨v, hv, rfl⟩ := withValue_next.1 ht
  rw [← h.resolve_eq, ← h.handleRead_eq] at hv
  exact ⟨_, withValue_next.2 ⟨v, hv, rfl⟩, (hk v).setOk true⟩

theorem storeValue {m : Operand} {v v' : Byte} (h : AgreeBut f s s') (hv : v' = v) :
    AnswersBut f (storeValue m v s) (storeValue m v' s') := by
  intro t ht
  obtain ⟨u, hu, rfl⟩ := storeValue_next.1 ht
  obtain ⟨u', hu', huu⟩ := h.handleWrite hu
  rw [← h.resolve_eq, ← hv] at hu'
  exact ⟨_, storeValue_next.2 ⟨u', hu', rfl⟩, huu.setOk true⟩

theorem shiftOperand {m : Operand} {g g' : Byte → Byte × Bool} (h : AgreeBut f s s') (hg : g' = g) :
    AnswersBut f (shiftOperand m g s) (shiftOperand m g' s') := by
  subst hg
  intro t ht
  obtain ⟨v, u, hv, hu, rfl⟩ := shiftOperand_next.1 ht
  obtain ⟨u', hu', huu⟩ := (h.setFlag .c rfl).handleWrite hu
  rw [← h.resolve_eq] at hu'
  rw [← h.resolve_eq, ← h.handleRead_eq] at hv
  exact ⟨_, shiftOperand_next.2 ⟨v, u', hv, hu', rfl⟩, (huu.setNZ rfl).setOk true⟩

theorem adjustOperand {m : Operand} (g : Byte → Byte) (h : AgreeBut f s s') :
    AnswersBut f (adjustOperand m g s) (adjustOperand m g s') := by
  intro t ht
  obtain ⟨v, u, hv, hu, rfl⟩ := adjustOperand_next.1 ht
  obtain ⟨u', hu', huu⟩ := h.handleWrite hu
  rw [← h.resolve_eq] at hu'
  rw [← h.resolve_eq, ← h.handleRead_eq] at hv
  exact ⟨_, adjustOperand_next.2 ⟨v, u', hv, hu', rfl⟩, (huu.setNZ rfl).setOk true⟩

theorem withTarget {m : Operand} {k k' : Addr → State} (h : AgreeBut f s s') (hk : ∀ a, AgreeBut f (k a) (k' a)) :
    AnswersBut f (withTarget m s k) (withTarget m s' k') := by
  intro t ht
  obtain ⟨a, ha, rfl⟩ := withTarget_next.1 ht
  rw [← h.resolve_eq] at ha
  exact ⟨_, withTarget_next.2 ⟨a, ha, rfl⟩, (hk a).setOk true⟩

theorem branchIf {m : Operand} {cond cond' : Bool} (h : AgreeBut f s s') (hcond : cond' = cond) :
    AnswersBut f (branchIf cond m s) (branchIf cond' m s') := by
  subst hcond
  cases cond'
  · exact h.complete
  · exact h.withTarget fun a => h.setPc rfl

/-- Two bytes, alike or not, pushed one on each state: the pushed cells may differ too. -/
theorem push_any (v v' : Byte) (h : AgreeBut f s s') : AgreeButCell f (stackAddr s.sp) (s.push v) (s'.push v') where
  a := h.a
  x := h.x
  y := h.y
  sp := by rw [State.push_sp, State.push_sp, h.sp]
  pc := h.pc
  ok := h.ok
  flag := h.flag
  memRead c hc := by
    rw [State.memRead_push, State.memRead_push, h.sp, if_neg hc.symm, if_neg hc.symm, h.memRead_eq]

end AgreeBut

/-- No meaning but PHP's and BRK's, which push P, depends on I or D. -/
theorem exec_answersBut {f : Flag} (hf : f = .i ∨ f = .d) {s s' : State} (h : AgreeBut f s s') {i : Instr}
    (hphp : i ≠ .php) (hbrk : i ≠ .brk) : AnswersBut f (exec i s) (exec i s') := by
  have hflag : ∀ g, g ≠ .i → g ≠ .d → s'.flag g = s.flag g := fun g hi hd =>
    h.flag g (by rcases hf with rfl | rfl <;> assumption)
  have hc := hflag .c (by decide) (by decide)
  have hz := hflag .z (by decide) (by decide)
  have hv := hflag .v (by decide) (by decide)
  have hn := hflag .n (by decide) (by decide)
  cases i with
  | lda m => exact h.withValue fun v => (h.setA rfl).setNZ rfl
  | ldx m => exact h.withValue fun v => (h.setX rfl).setNZ rfl
  | ldy m => exact h.withValue fun v => (h.setY rfl).setNZ rfl
  | sta m => exact h.storeValue h.a
  | stx m => exact h.storeValue h.x
  | sty m => exact h.storeValue h.y
  | tax => exact ((h.setX h.a).setNZ h.a).complete
  | tay => exact ((h.setY h.a).setNZ h.a).complete
  | tsx => exact ((h.setX h.sp).setNZ h.sp).complete
  | txa => exact ((h.setA h.x).setNZ h.x).complete
  | tya => exact ((h.setA h.y).setNZ h.y).complete
  | txs => exact (h.setSp h.x).complete
  | adc m | sbc m => exact h.withValue fun v => h.takeSum (by rw [h.a, hc])
  | cmp m => exact h.withValue fun v => h.compare v h.a
  | cpx m => exact h.withValue fun v => h.compare v h.x
  | cpy m => exact h.withValue fun v => h.compare v h.y
  | and m | ora m | eor m => exact h.withValue fun v => (h.setA (by rw [h.a])).setNZ (by rw [h.a])
  | bit m =>
    exact h.withValue fun v => ((h.setFlag .z (by rw [h.a])).setFlag .n rfl).setFlag .v rfl
  | asl m | lsr m => exact h.shiftOperand rfl
  | rol m | ror m => exact h.shiftOperand (by rw [hc])
  | inc m | dec m => exact h.adjustOperand _
  | inx | dex => exact ((h.setX (by rw [h.x])).setNZ (by rw [h.x])).complete
  | iny | dey => exact ((h.setY (by rw [h.y])).setNZ (by rw [h.y])).complete
  | bcc m | bcs m => exact h.branchIf (by rw [hc])
  | bne m | beq m => exact h.branchIf (by rw [hz])
  | bpl m | bmi m => exact h.branchIf (by rw [hn])
  | bvc m | bvs m => exact h.branchIf (by rw [hv])
  | jmp m => exact h.withTarget fun a => h.setPc rfl
  | jsr m => exact h.withTarget fun a => (h.push16 (by rw [h.pc])).setPc rfl
  | rts => exact (h.pop16_snd.setPc (by rw [h.pop16_fst])).complete
  | rti =>
    have hpulled := h.pop_snd.setP (congrArg pulledStatus h.pop_fst)
    exact (hpulled.pop16_snd.setPc hpulled.pop16_fst).complete
  | pha => exact (h.push h.a).complete
  | php => exact absurd rfl hphp
  | pla => exact ((h.pop_snd.setA h.pop_fst).setNZ h.pop_fst).complete
  | plp => exact (h.pop_snd.setP (congrArg pulledStatus h.pop_fst)).complete
  | clc | sec | cld | sed | cli | sei | clv => exact (h.setFlag _ rfl).complete
  | brk => exact absurd rfl hbrk
  | nop => exact h.complete
  | null op => exact h.halt

theorem AgreeButCell.setOk {f : Flag} {b : Addr} {s s' : State} (ok : Bool) (h : AgreeButCell f b s s') :
    AgreeButCell f b (s.setOk ok) (s'.setOk ok) :=
  { h with ok := rfl }

theorem slot_eq_stackAddr (sp : Byte) : slot sp = stackAddr sp := by
  apply BitVec.eq_of_toNat_eq
  rw [stackAddr_toNat, slot, BitVec.toNat_ofNat]
  omega

/-- PHP pushes its copy of P into the slot at SP (R211). -/
theorem exec_php_agree {f : Flag} {s s' t : State} (h : AgreeBut f s s') (ht : exec .php s = .next t) :
    ∃ u, exec .php s' = .next u ∧ AgreeButCell f (slot s.sp) t u := by
  refine ⟨_, rfl, ?_⟩
  rw [complete_next.1 ht, slot_eq_stackAddr]
  exact (h.push_any _ _).setOk true

/-- BRK pushes its copy of P two slots below SP, under PC (R221). -/
theorem exec_brk_agree {f : Flag} {s s' t : State} (h : AgreeBut f s s') (ht : exec .brk s = .next t) :
    ∃ u, exec .brk s' = .next u ∧ AgreeButCell f (slot (s.sp - 2)) t u := by
  have hpushed : AgreeBut f ((s.setFlag .i true).push16 s.pc) ((s'.setFlag .i true).push16 s'.pc) :=
    (h.setFlag .i rfl).push16 h.pc
  have hsp : ((s.setFlag .i true).push16 s.pc).sp = s.sp - 2 := by
    rw [State.push16_sp, State.setFlag_sp, BitVec.sub_sub]; rfl
  refine ⟨_, rfl, ?_⟩
  rw [complete_next.1 ht, slot_eq_stackAddr, ← hsp]
  exact (hpushed.push_any _ _).setOk true

/-! ### The statements of 10_state.md -/

/-- Settles O26: what a step does to memory, U and B (`stepWith_cases`). -/
theorem everyStepKeepsTheInvariant : Obligations.EveryStepKeepsTheInvariant := by
  rintro c s t ⟨hmem, hu, hb⟩ h
  exact ⟨stepWith_mem_wf h hmem, stepWith_flag_u h hu, stepWith_flag_b h hb⟩

/-- Settles O28: every meaning is a sequence of listed updates, and those have the frame. -/
theorem onlyListedInstructionsWrite : Obligations.OnlyListedInstructionsWrite := by
  intro i s t hwf h
  have hlisted := exec_listedUpdates hwf h
  obtain ⟨ha, hx, hy, hsp, hmem, hpc⟩ := hlisted.frame
  exact ⟨ha, hx, hy, hsp, fun _ => hlisted.flag_eq, hmem, hpc⟩

/-- Settles O29: by the meaning's form, with PHP and BRK, the two that push P, apart. -/
theorem interruptAndDecimalFlagsAreInert : Obligations.InterruptAndDecimalFlagsAreInert := by
  intro f i s t on hf h
  have hagree := agreeBut_setFlag f s on
  by_cases hphp : i = .php
  · subst hphp
    obtain ⟨u, hu, hut⟩ := exec_php_agree hagree h
    exact ⟨u, hu, hut.get, hut.pc, hut.ok, hut.flag, fun hne => absurd rfl hne, fun _ => hut.memRead, nofun⟩
  by_cases hbrk : i = .brk
  · subst hbrk
    obtain ⟨u, hu, hut⟩ := exec_brk_agree hagree h
    exact ⟨u, hu, hut.get, hut.pc, hut.ok, hut.flag, fun _ hne => absurd rfl hne, nofun, fun _ => hut.memRead⟩
  · obtain ⟨u, hu, hut⟩ := exec_answersBut hf hagree hphp hbrk t h
    exact ⟨u, hu, hut.get, hut.pc, hut.ok, hut.flag, fun _ _ => hut.mem, fun hi => absurd hi hphp,
      fun hi => absurd hi hbrk⟩

/-- Settles O2: by `Memory.wf_write`, and by induction on the two lists. -/
theorem memoryFormIsCanonical : Obligations.MemoryFormIsCanonical :=
  ⟨fun _ _ v hm ha => Memory.wf_write hm ha v, fun _ _ => Memory.eq_of_read_eq⟩

/-- Settles O27: the two halves of the invariant of P, each from its own premise. -/
theorem unusedAndBreakBitsAreKeptApart : Obligations.UnusedAndBreakBitsAreKeptApart :=
  fun _ _ _ h => ⟨stepWith_flag_u h, stepWith_flag_b h⟩

/-- Settles O25: P = 0x24 has U set and B clear. -/
theorem invariantHoldsAtReset : Obligations.InvariantHoldsAtReset :=
  ⟨State.reset_mem_wf, by decide, by decide⟩

/-- Settles O57: the reset state, field by field; its memory lists no cell. -/
theorem resetSetsEveryPieceOfState : Obligations.ResetSetsEveryPieceOfState :=
  fun _ _ => ⟨State.reset, rfl, rfl, rfl, rfl, rfl, rfl, rfl, rfl, fun _ => rfl⟩

end Sys2Proof.Claims

/-! PROOFS of the statements about memory and the stack (20_memory.md). -/

namespace Sys2Proof.Machine

/-! ### Read after write, on the stack and at PC -/

theorem State.memRead_memWrite_same (s : State) (b : Addr) (v : Byte) : (s.memWrite b v).memRead b = v := by
  rw [State.memRead_memWrite, if_pos rfl]

theorem State.memRead_memWrite_of_ne (s : State) {a b : Addr} (h : a ≠ b) (v : Byte) :
    (s.memWrite a v).memRead b = s.memRead b := by
  rw [State.memRead_memWrite, if_neg h]

theorem State.memRead_push_same (s : State) (v : Byte) : (s.push v).memRead (stackAddr s.sp) = v := by
  rw [State.memRead_push, if_pos rfl]

/-- The two slots of a 16-bit push are different, SP wrapping or not (decision D18). -/
theorem stackAddr_sub_one_ne (sp : Byte) : stackAddr (sp - 1) ≠ stackAddr sp := by
  rw [Ne, stackAddr_inj]
  bv_omega

theorem State.memRead_push16_high (s : State) (w : Addr) : (s.push16 w).memRead (stackAddr s.sp) = highByte w := by
  rw [State.push16, State.memRead_push, State.push_sp, if_neg (stackAddr_sub_one_ne s.sp), State.memRead_push_same]

theorem State.memRead_push16_low (s : State) (w : Addr) :
    (s.push16 w).memRead (stackAddr (s.sp - 1)) = lowByte w :=
  State.memRead_push_same (s.push (highByte w)) (lowByte w)

/-- Above the stack page there is no stack slot (R48). -/
theorem stackAddr_ne_of_le {b : Addr} (hb : 512 ≤ b.toNat) (sp : Byte) : stackAddr sp ≠ b := by
  rintro rfl
  have hslot := stackAddr_toNat sp
  omega

theorem State.memRead_push_of_le (s : State) (v : Byte) {b : Addr} (hb : 512 ≤ b.toNat) :
    (s.push v).memRead b = s.memRead b := by
  rw [State.memRead_push, if_neg (stackAddr_ne_of_le hb s.sp)]

theorem State.memRead_push16_of_le (s : State) (w : Addr) {b : Addr} (hb : 512 ≤ b.toNat) :
    (s.push16 w).memRead b = s.memRead b := by
  rw [State.push16, State.memRead_push_of_le _ _ hb, State.memRead_push_of_le _ _ hb]

/-- A 16-bit pop joins the bytes of the next two slots, the low byte in the first (R53). -/
theorem State.pop16_fst (s : State) :
    s.pop16.1 = joinBytes (s.memRead (stackAddr (s.sp + 1 + 1))) (s.memRead (stackAddr (s.sp + 1))) := rfl

theorem State.pop16_push16_fst (s : State) (w : Addr) : (s.push16 w).pop16.1 = w := by
  rw [State.pop16_fst, State.push16_sp, BitVec.sub_add_cancel, BitVec.sub_add_cancel, State.memRead_push16_high,
    State.memRead_push16_low, joinBytes_high_low]

theorem State.pop16_push16_sp (s : State) (w : Addr) : (s.push16 w).pop16.2.sp = s.sp := by
  rw [State.pop16_sp, State.push16_sp, BitVec.sub_add_cancel, BitVec.sub_add_cancel]

/-- The next fetch decodes the three bytes stored from PC on, PC wrapping or not (R58). -/
theorem State.fetchInstr_placeAtPc (s : State) (b0 b1 b2 : Byte) :
    (s.placeAtPc b0 b1 b2).fetchInstr = decodeBytes b0 b1 b2 := by
  have h10 : s.pc + 1 ≠ s.pc := by bv_omega
  have h20 : s.pc + 2 ≠ s.pc := by bv_omega
  have h21 : s.pc + 2 ≠ s.pc + 1 := by bv_omega
  have hpc : (s.placeAtPc b0 b1 b2).pc = s.pc := rfl
  rw [State.fetchInstr, hpc, State.placeAtPc, State.memRead_memWrite_same, State.memRead_memWrite_of_ne _ h20,
    State.memRead_memWrite_of_ne _ h10, State.memRead_memWrite_same, State.memRead_memWrite_of_ne _ h21,
    State.memRead_memWrite_same]

/-! ### Where BRK's trap goes -/

/-- BRK's trap leaves PC, or loads it from the vector, which no push writes (R221). -/
theorem State.enterBreak_pc (s : State) (c : Config) :
    (s.enterBreak c).pc = if c.brkLoadsVector then s.read16 0xFFFE 0xFFFF else s.pc := by
  have hvector : ∀ (v : Byte) (b : Addr), 512 ≤ b.toNat →
      (((s.setFlag .i true).push16 s.pc).push v).memRead b = s.memRead b := fun v b hb => by
    rw [State.memRead_push_of_le _ _ hb, State.memRead_push16_of_le _ _ hb, State.memRead_congr (s.setFlag_mem .i true)]
  simp only [State.enterBreak, State.setFlag_pc]
  split
  · rw [State.setPc_pc, State.read16, hvector _ _ (by decide), hvector _ _ (by decide), State.read16]
  · rw [State.push_pc, State.push16_pc, State.setFlag_pc]

/-! ### The fetch: which bytes the decoder looks at -/

theorem Mode.length_pos (m : Mode) : 0 < m.length := by cases m <;> decide

/-- The operand of a mode depends on the bytes the mode has only (R71). -/
theorem Mode.withBytes_congr (m : Mode) {b1 b2 c1 c2 : Byte} (h1 : 1 < m.length → c1 = b1)
    (h2 : 2 < m.length → c2 = b2) : m.withBytes c1 c2 = m.withBytes b1 b2 := by
  cases m with
  | implicit | accumulator => rfl
  | immediate | indirectX | indirectY | relative | zeropage | zeropageX | zeropageY =>
    rw [h1 (by decide), Mode.withBytes, Mode.withBytes]
  | absolute | absoluteX | absoluteY | indirect => rw [h1 (by decide), h2 (by decide)]

theorem decodeBytes_of_some {op : Byte} {o : Operation} {m : Mode} (h : decodeEntry op = some (o, m)) (b1 b2 : Byte) :
    decodeBytes op b1 b2 = o.withOperand (m.withBytes b1 b2) := by
  rw [decodeBytes, h]

theorem decodeBytes_of_none {op : Byte} (h : decodeEntry op = none) (b1 b2 : Byte) :
    decodeBytes op b1 b2 = .null op := by
  rw [decodeBytes, h]

theorem decodeBytes_length {op : Byte} {o : Operation} {m : Mode} (h : decodeEntry op = some (o, m)) (b1 b2 : Byte) :
    (decodeBytes op b1 b2).length = m.length := by
  have hlegal : o.legalModes.contains (m.withBytes b1 b2).mode = true := by
    simpa only [h, Option.all_some, Mode.mode_withBytes] using decodeEntry_modes_legal op
  rw [decodeBytes_of_some h, Instr.length, Instr.operand, Operation.parts_withOperand hlegal]
  exact congrArg Mode.length (Mode.mode_withBytes m b1 b2)

/-- The decoder depends on the bytes of the instruction it answers only (R71, R92). -/
theorem decodeBytes_congr {op b1 b2 c1 c2 : Byte} (h1 : 1 < (decodeBytes op b1 b2).length → c1 = b1)
    (h2 : 2 < (decodeBytes op b1 b2).length → c2 = b2) : decodeBytes op c1 c2 = decodeBytes op b1 b2 := by
  cases hentry : decodeEntry op with
  | none => rw [decodeBytes_of_none hentry, decodeBytes_of_none hentry]
  | some entry =>
    obtain ⟨o, m⟩ := entry
    rw [decodeBytes_length hentry] at h1 h2
    rw [decodeBytes_of_some hentry, decodeBytes_of_some hentry, Mode.withBytes_congr m h1 h2]

/-! ### Memory after a list of accesses -/

theorem Memory.after_append (m : Memory) (l l' : List Access) : m.after (l ++ l') = (m.after l).after l' := by
  induction l generalizing m with
  | nil => rfl
  | cons c rest ih => cases c <;> exact ih _

/-- Reads leave memory as it is (R41). -/
theorem Memory.after_reads (m : Memory) {l : List Access} (h : ∀ c ∈ l, ∃ b, c = .read b) : m.after l = m := by
  induction l with
  | nil => rfl
  | cons c rest ih =>
    obtain ⟨b, rfl⟩ := h c List.mem_cons_self
    exact ih fun d hd => h d (List.mem_cons_of_mem _ hd)

theorem Memory.after_fetchAccesses (m : Memory) (s : State) : m.after (fetchAccesses s) = m :=
  Memory.after_reads m fun _ hc => by
    obtain ⟨k, -, rfl⟩ := List.mem_map.1 hc
    exact ⟨_, rfl⟩

theorem Memory.after_resolverAccesses (mem : Memory) (m : Operand) (s : State) :
    mem.after (resolverAccesses m s) = mem := by
  cases m <;> rfl

theorem Memory.after_valueAccesses (mem : Memory) (m : Operand) (s : State) :
    mem.after (valueAccesses m s) = mem := by
  rw [valueAccesses, Memory.after_append, Memory.after_resolverAccesses]
  cases resolve m s <;> rfl

theorem Memory.after_popAccesses (m : Memory) (s : State) (n : Nat) : m.after (popAccesses s n) = m := by
  induction n generalizing s with
  | zero => rfl
  | succ n ih => exact ih _

/-- A handle's write does the accesses listed for it (R90). -/
theorem Handle.write_mem {d : Handle} {v : Byte} {s t : State} (h : d.write v s = .ok t) :
    t.mem = s.mem.after (d.writeAccesses v) := by
  rcases Handle.write_ok h with ⟨rfl, rfl⟩ | ⟨b, rfl, rfl⟩ <;> rfl

/-- A read-modify-write whose read succeeds: the reads of its operand, then one write. -/
theorem modifyAccesses_of_read {m : Operand} {g : Byte → Byte} {s : State} {v : Byte}
    (h : (resolve m s).read s = .ok v) :
    modifyAccesses m g s = valueAccesses m s ++ (resolve m s).writeAccesses (g v) := by
  rw [modifyAccesses, h, valueAccesses]

theorem State.push_mem (s : State) (v : Byte) : (s.push v).mem = s.mem.after (pushAccesses s [v]) := rfl

theorem State.push16_mem (s : State) (w : Addr) :
    (s.push16 w).mem = s.mem.after (pushAccesses s [highByte w, lowByte w]) := rfl

/-- BRK's trap makes its three pushes; loading the vector only reads (R221). -/
theorem State.enterBreak_mem (s : State) (c : Config) :
    (s.enterBreak c).mem = s.mem.after (execAccesses c .brk s) := by
  unfold State.enterBreak execAccesses
  rw [Memory.after_append]
  cases c.brkLoadsVector <;> rfl

/-! The operand forms: the next state's memory has the writes of the form's access list. -/

section Forms

variable {m : Operand} {s t : State}

theorem withValue_mem {k : Byte → State} (h : withValue m s k = .next t) (hk : ∀ v, (k v).mem = s.mem) :
    t.mem = s.mem.after (valueAccesses m s) := by
  obtain ⟨v, -, rfl⟩ := withValue_next.1 h
  rw [Memory.after_valueAccesses, State.setOk_mem, hk]

theorem storeValue_mem {v : Byte} (h : storeValue m v s = .next t) : t.mem = s.mem.after (storeAccesses m v s) := by
  obtain ⟨u, hu, rfl⟩ := storeValue_next.1 h
  rw [storeAccesses, Memory.after_append, Memory.after_resolverAccesses, State.setOk_mem, Handle.write_mem hu]

theorem shiftOperand_mem {g : Byte → Byte × Bool} (h : shiftOperand m g s = .next t) :
    t.mem = s.mem.after (modifyAccesses m (fun v => (g v).1) s) := by
  obtain ⟨v, u, hv, hu, rfl⟩ := shiftOperand_next.1 h
  rw [modifyAccesses_of_read hv, Memory.after_append, Memory.after_valueAccesses, State.setOk_mem, State.setNZ_mem,
    Handle.write_mem hu, State.setFlag_mem]

theorem adjustOperand_mem {g : Byte → Byte} (h : adjustOperand m g s = .next t) :
    t.mem = s.mem.after (modifyAccesses m g s) := by
  obtain ⟨v, u, hv, hu, rfl⟩ := adjustOperand_next.1 h
  rw [modifyAccesses_of_read hv, Memory.after_append, Memory.after_valueAccesses, State.setOk_mem, State.setNZ_mem,
    Handle.write_mem hu]

theorem branchIf_mem {cond : Bool} (h : branchIf cond m s = .next t) :
    t.mem = s.mem.after (resolverAccesses m s) := by
  rw [Memory.after_resolverAccesses]
  rcases branchIf_next.1 h with ⟨-, rfl⟩ | ⟨-, a, -, rfl⟩ <;> rfl

/-- A target's resolver reads only, so memory is as the continuation's accesses leave it. -/
theorem withTarget_mem {k : Addr → State} {l : List Access} (h : withTarget m s k = .next t)
    (hk : ∀ a, (k a).mem = s.mem.after l) : t.mem = s.mem.after (resolverAccesses m s ++ l) := by
  obtain ⟨a, -, rfl⟩ := withTarget_next.1 h
  rw [Memory.after_append, Memory.after_resolverAccesses, State.setOk_mem, hk]

theorem complete_mem {u : State} {l : List Access} (h : complete u = .next t) (hu : u.mem = s.mem.after l) :
    t.mem = s.mem.after l := by
  rw [complete_next.1 h, State.setOk_mem, hu]

end Forms

/-- Every meaning but BRK's, which takes parameters, writes exactly what its access list writes. -/
theorem exec_mem {c : Config} {i : Instr} {s t : State} (hbrk : i ≠ .brk) (h : exec i s = .next t) :
    t.mem = s.mem.after (execAccesses c i s) := by
  cases i with
  | lda m | ldx m | ldy m | adc m | sbc m | cmp m | cpx m | cpy m | and m | ora m | eor m | bit m =>
    exact withValue_mem h fun _ => rfl
  | sta m | stx m | sty m => exact storeValue_mem h
  | asl m | lsr m | rol m | ror m => exact shiftOperand_mem h
  | inc m | dec m => exact adjustOperand_mem h
  | bcc m | bcs m | bne m | beq m | bpl m | bmi m | bvc m | bvs m => exact branchIf_mem h
  | jmp m =>
    rw [execAccesses, ← List.append_nil (resolverAccesses m s)]
    exact withTarget_mem h fun _ => rfl
  | jsr m => exact withTarget_mem h fun _ => State.push16_mem s _
  | rts | rti | pla | plp => exact complete_mem h (Memory.after_popAccesses s.mem s _).symm
  | pha | php => exact complete_mem h (State.push_mem s _)
  | tax | tay | tsx | txa | tya | txs | inx | iny | dex | dey | clc | sec | cld | sed | cli | sei | clv | nop =>
    exact complete_mem h rfl
  | brk => exact absurd rfl hbrk
  | null op => rw [halt_next.1 h]; rfl

theorem execWith_brk (c : Config) (s : State) : execWith c .brk s = execBrkWith c s := if_pos rfl

theorem execWith_of_ne {i : Instr} (h : i ≠ .brk) (c : Config) (s : State) : execWith c i s = exec i s := if_neg h

theorem execWith_mem {c : Config} {i : Instr} {s t : State} (h : execWith c i s = .next t) :
    t.mem = s.mem.after (execAccesses c i s) := by
  by_cases hbrk : i = .brk
  · subst hbrk
    rw [execWith_brk, execBrkWith] at h
    split at h
    · rw [halt_next.1 h, State.setOk_mem, State.enterBreak_mem]
    · exact complete_mem h (State.enterBreak_mem s c)
  · rw [execWith_of_ne hbrk] at h
    exact exec_mem hbrk h

end Sys2Proof.Machine

namespace Sys2Proof.Claims

open Sys2Proof.Machine

/-! ### The frames of memory's and the stack's operations -/

namespace OnlyChanges

variable {rs rs' : List Reg} {fs fs' : List Flag} {bs bs' : List Addr} {s t u : State}

theorem mono (h : OnlyChanges rs fs bs s t) (hr : rs ⊆ rs') (hf : fs ⊆ fs') (hb : bs ⊆ bs') :
    OnlyChanges rs' fs' bs' s t := by
  obtain ⟨hreg, hflag, hmem⟩ := h
  exact ⟨fun r hn => hreg r fun hm => hn (hr hm), fun f hn => hflag f fun hm => hn (hf hm),
    fun b hn => hmem b fun hm => hn (hb hm)⟩

/-- One change after another changes what either of them does. -/
theorem trans (h : OnlyChanges rs fs bs s t) (h' : OnlyChanges rs' fs' bs' t u) :
    OnlyChanges (rs ++ rs') (fs ++ fs') (bs ++ bs') s u := by
  obtain ⟨hreg, hflag, hmem⟩ := h.mono (List.subset_append_left rs rs') (List.subset_append_left fs fs')
    (List.subset_append_left bs bs')
  obtain ⟨hreg', hflag', hmem'⟩ := h'.mono (List.subset_append_right rs rs') (List.subset_append_right fs fs')
    (List.subset_append_right bs bs')
  exact ⟨fun r hr => (hreg' r hr).trans (hreg r hr), fun f hf => (hflag' f hf).trans (hflag f hf),
    fun b hb => (hmem' b hb).trans (hmem b hb)⟩

theorem memWrite (s : State) (b : Addr) (v : Byte) : OnlyChanges [] [] [b] s (s.memWrite b v) :=
  ⟨fun r _ => by cases r <;> rfl, fun _ _ => rfl,
    fun _ hc => s.memRead_memWrite_of_ne (fun h => hc (List.mem_singleton.2 h.symm)) v⟩

theorem setSp (s : State) (v : Byte) : OnlyChanges [.sp] [] [] s (s.setSp v) := by
  refine ⟨fun r hr => ?_, fun _ _ => rfl, fun _ _ => rfl⟩
  cases r with
  | sp => exact absurd List.mem_cons_self hr
  | a | x | y => rfl

theorem push (s : State) (v : Byte) : OnlyChanges [.sp] [] [slot s.sp] s (s.push v) := by
  rw [slot_eq_stackAddr]
  exact (memWrite s _ v).trans (setSp _ _)

theorem push16 (s : State) (w : Addr) : OnlyChanges [.sp] [] [slot s.sp, slot (s.sp - 1)] s (s.push16 w) :=
  ((push s (highByte w)).trans (push _ (lowByte w))).mono (by simp) (by simp) (by simp)

end OnlyChanges

/-! ### Two runs from states with the same registers -/

/-- The states hold the same bytes wherever the access list reads. -/
def ReadAlike (l : List Access) (s s' : State) : Prop := ∀ b, .read b ∈ l → s'.memRead b = s.memRead b

/-- If the first result is a next state, so is the second, with the same registers and outcome bit. -/
def AnswersAlike (r r' : Result) : Prop :=
  ∀ t, r = .next t → ∃ t', r' = .next t' ∧ SameRegisters t t' ∧ t'.ok = t.ok

namespace ReadAlike

variable {l l' : List Access} {s s' : State}

theorem mono (h : ReadAlike l' s s') (hl : l ⊆ l') : ReadAlike l s s' := fun b hb => h b (hl hb)

theorem left (h : ReadAlike (l ++ l') s s') : ReadAlike l s s' := h.mono (List.subset_append_left l l')

theorem right (h : ReadAlike (l ++ l') s s') : ReadAlike l' s s' := h.mono (List.subset_append_right l l')

theorem head {b : Addr} (h : ReadAlike (.read b :: l) s s') : s'.memRead b = s.memRead b := h b List.mem_cons_self

theorem tail {c : Access} (h : ReadAlike (c :: l) s s') : ReadAlike l s s' := h.mono (List.subset_cons_self c l)

theorem read16 {lo hi : Addr} (h : ReadAlike (.read lo :: .read hi :: l) s s') :
    s'.read16 lo hi = s.read16 lo hi := by
  rw [State.read16, h.head, h.tail.head, State.read16]

theorem handleRead {d : Handle} (h : ReadAlike d.readAccesses s s') (ha : s'.a = s.a) : d.read s' = d.read s := by
  cases d with
  | implicit | immediate v => rfl
  | accumulator => exact congrArg Except.ok ha
  | memory b => exact congrArg Except.ok h.head

/-- A read-modify-write that ends in a misused handle reads no less than its operand. -/
theorem of_modify {m : Operand} {g : Byte → Byte} (h : ReadAlike (modifyAccesses m g s) s s') :
    ReadAlike (valueAccesses m s) s s' := by
  cases hv : (resolve m s).read s with
  | ok v => rw [modifyAccesses_of_read hv] at h; exact h.left
  | error e =>
    rw [modifyAccesses, hv] at h
    cases hd : resolve m s with
    | implicit => rw [valueAccesses, hd]; simpa only [Handle.readAccesses, List.append_nil] using h
    | accumulator | memory b | immediate w => simp [hd, Handle.read] at hv

end ReadAlike

namespace SameRegisters

variable {s s' : State}

theorem mk (ha : s'.a = s.a) (hx : s'.x = s.x) (hy : s'.y = s.y) (hsp : s'.sp = s.sp) (hpc : s'.pc = s.pc)
    (hp : s'.p = s.p) : SameRegisters s s' :=
  ⟨fun r => by cases r <;> assumption, hpc, hp⟩

theorem a (h : SameRegisters s s') : s'.a = s.a := h.1 .a
theorem x (h : SameRegisters s s') : s'.x = s.x := h.1 .x
theorem y (h : SameRegisters s s') : s'.y = s.y := h.1 .y
theorem sp (h : SameRegisters s s') : s'.sp = s.sp := h.1 .sp
theorem pc (h : SameRegisters s s') : s'.pc = s.pc := h.2.1
theorem p (h : SameRegisters s s') : s'.p = s.p := h.2.2

theorem flag (h : SameRegisters s s') (f : Flag) : s'.flag f = s.flag f := State.flag_congr h.p f

/-! The same update of both states. -/

theorem setA {v v' : Byte} (h : SameRegisters s s') (hv : v' = v) : SameRegisters (s.setA v) (s'.setA v') :=
  mk hv h.x h.y h.sp h.pc h.p

theorem setX {v v' : Byte} (h : SameRegisters s s') (hv : v' = v) : SameRegisters (s.setX v) (s'.setX v') :=
  mk h.a hv h.y h.sp h.pc h.p

theorem setY {v v' : Byte} (h : SameRegisters s s') (hv : v' = v) : SameRegisters (s.setY v) (s'.setY v') :=
  mk h.a h.x hv h.sp h.pc h.p

theorem setSp {v v' : Byte} (h : SameRegisters s s') (hv : v' = v) : SameRegisters (s.setSp v) (s'.setSp v') :=
  mk h.a h.x h.y hv h.pc h.p

theorem setPc {w w' : Addr} (h : SameRegisters s s') (hw : w' = w) : SameRegisters (s.setPc w) (s'.setPc w') :=
  mk h.a h.x h.y h.sp hw h.p

theorem setP {v v' : Byte} (h : SameRegisters s s') (hv : v' = v) : SameRegisters (s.setP v) (s'.setP v') :=
  mk h.a h.x h.y h.sp h.pc hv

theorem setOk (b : Bool) (h : SameRegisters s s') : SameRegisters (s.setOk b) (s'.setOk b) :=
  mk h.a h.x h.y h.sp h.pc h.p

theorem memWrite (b b' : Addr) (v v' : Byte) (h : SameRegisters s s') :
    SameRegisters (s.memWrite b v) (s'.memWrite b' v') :=
  mk h.a h.x h.y h.sp h.pc h.p

theorem setFlag (f : Flag) {on on' : Bool} (h : SameRegisters s s') (hon : on' = on) :
    SameRegisters (s.setFlag f on) (s'.setFlag f on') :=
  h.setP (by rw [h.p, hon])

theorem setNZ {v v' : Byte} (h : SameRegisters s s') (hv : v' = v) : SameRegisters (s.setNZ v) (s'.setNZ v') := by
  subst hv
  exact (h.setFlag .z rfl).setFlag .n rfl

theorem compare (v : Byte) {r r' : Byte} (h : SameRegisters s s') (hr : r' = r) :
    SameRegisters (s.compare r v) (s'.compare r' v) := by
  subst hr
  exact ((h.setFlag .c rfl).setFlag .z rfl).setFlag .n rfl

theorem takeSum {o o' : AddOut} (h : SameRegisters s s') (ho : o' = o) :
    SameRegisters (s.takeSum o) (s'.takeSum o') := by
  subst ho
  exact (((h.setA rfl).setFlag .c rfl).setFlag .v rfl).setNZ rfl

theorem push (v v' : Byte) (h : SameRegisters s s') : SameRegisters (s.push v) (s'.push v') :=
  (h.memWrite _ _ v v').setSp (by rw [h.sp])

theorem push16 (w w' : Addr) (h : SameRegisters s s') : SameRegisters (s.push16 w) (s'.push16 w') :=
  (h.push _ _).push _ _

theorem pop_snd (h : SameRegisters s s') : SameRegisters s.pop.2 s'.pop.2 :=
  h.setSp (by rw [h.sp])

theorem pop16_snd (h : SameRegisters s s') : SameRegisters s.pop16.2 s'.pop16.2 :=
  h.pop_snd.pop_snd

theorem handleWrite {d : Handle} {v : Byte} {t : State} (h : SameRegisters s s') (hw : d.write v s = .ok t) :
    ∃ t', d.write v s' = .ok t' ∧ SameRegisters t t' := by
  rcases Handle.write_ok hw with ⟨rfl, rfl⟩ | ⟨b, rfl, rfl⟩
  · exact ⟨_, rfl, h.setA rfl⟩
  · exact ⟨_, rfl, h.memWrite b b v v⟩

/-! The bytes popped, where the pops read alike. -/

theorem pop_fst {n : Nat} (h : SameRegisters s s') (hr : ReadAlike (popAccesses s (n + 1)) s s') :
    s'.pop.1 = s.pop.1 := by
  rw [State.pop, h.sp, hr.head, State.pop]

theorem pop16_fst {n : Nat} (h : SameRegisters s s') (hr : ReadAlike (popAccesses s (n + 2)) s s') :
    s'.pop16.1 = s.pop16.1 := by
  have hrest : ReadAlike (popAccesses s.pop.2 (n + 1)) s.pop.2 s'.pop.2 := hr.tail
  rw [State.pop16, h.pop_fst hr, h.pop_snd.pop_fst hrest, State.pop16]

/-! The access lists of the two states. -/

theorem resolverAccesses_eq (h : SameRegisters s s') (m : Operand) : resolverAccesses m s' = resolverAccesses m s := by
  cases m <;> simp only [resolverAccesses, h.x]

theorem resolve_eq {m : Operand} (h : SameRegisters s s') (hr : ReadAlike (resolverAccesses m s) s s') :
    resolve m s' = resolve m s := by
  cases m with
  | implicit | accumulator | immediate v | absolute b | zeropage zp => rfl
  | absoluteX b | zeropageX zp => rw [resolve, h.x, resolve]
  | absoluteY b | zeropageY zp => rw [resolve, h.y, resolve]
  | relative off => rw [resolve, h.pc, resolve]
  | indirect b => rw [resolve, hr.read16, resolve]
  | indirectX zp => rw [resolve, h.x, hr.read16, resolve]
  | indirectY zp => rw [resolve, h.y, hr.read16, resolve]

/-- The operand's read gives both states the same value. -/
theorem operandRead_eq {m : Operand} (h : SameRegisters s s') (hr : ReadAlike (valueAccesses m s) s s') :
    (resolve m s').read s' = (resolve m s).read s := by
  rw [h.resolve_eq hr.left, hr.right.handleRead h.a]

theorem valueAccesses_eq {m : Operand} (h : SameRegisters s s') (hr : ReadAlike (valueAccesses m s) s s') :
    valueAccesses m s' = valueAccesses m s := by
  rw [valueAccesses, h.resolverAccesses_eq, h.resolve_eq hr.left, valueAccesses]

theorem storeAccesses_eq {m : Operand} {v v' : Byte} (h : SameRegisters s s')
    (hr : ReadAlike (storeAccesses m v s) s s') (hv : v' = v) : storeAccesses m v' s' = storeAccesses m v s := by
  rw [storeAccesses, h.resolverAccesses_eq, h.resolve_eq hr.left, hv, storeAccesses]

theorem modifyAccesses_eq {m : Operand} {g g' : Byte → Byte} (h : SameRegisters s s')
    (hr : ReadAlike (modifyAccesses m g s) s s') (hg : g' = g) : modifyAccesses m g' s' = modifyAccesses m g s := by
  have hvalue := hr.of_modify
  rw [modifyAccesses, h.operandRead_eq hvalue, h.resolverAccesses_eq, h.resolve_eq hvalue.left, hg, modifyAccesses]

theorem pushAccesses_eq (h : SameRegisters s s') (l : List Byte) : pushAccesses s' l = pushAccesses s l := by
  induction l generalizing s s' with
  | nil => rfl
  | cons v rest ih => rw [pushAccesses, h.sp, ih (h.setSp rfl), pushAccesses]

theorem popAccesses_eq (h : SameRegisters s s') (n : Nat) : popAccesses s' n = popAccesses s n := by
  induction n generalizing s s' with
  | zero => rfl
  | succ n ih => rw [popAccesses, h.sp, ih (h.setSp rfl), popAccesses]

/-! The same outcome or operand form of both states. -/

theorem complete (h : SameRegisters s s') : AnswersAlike (complete s) (complete s') := fun _ ht =>
  ⟨_, rfl, complete_next.1 ht ▸ h.setOk true, by rw [complete_next.1 ht]; rfl⟩

theorem halt (h : SameRegisters s s') : AnswersAlike (halt s) (halt s') := fun _ ht =>
  ⟨_, rfl, halt_next.1 ht ▸ h.setOk false, by rw [halt_next.1 ht]; rfl⟩

variable {m : Operand}

theorem withValue {k k' : Byte → State} (h : SameRegisters s s') (hr : ReadAlike (valueAccesses m s) s s')
    (hk : ∀ v, SameRegisters (k v) (k' v)) : AnswersAlike (withValue m s k) (withValue m s' k') := by
  intro t ht
  obtain ⟨v, hv, rfl⟩ := withValue_next.1 ht
  rw [← h.operandRead_eq hr] at hv
  exact ⟨_, withValue_next.2 ⟨v, hv, rfl⟩, (hk v).setOk true, rfl⟩

theorem storeValue {v v' : Byte} (h : SameRegisters s s') (hr : ReadAlike (storeAccesses m v s) s s') (hv : v' = v) :
    AnswersAlike (storeValue m v s) (storeValue m v' s') := by
  subst hv
  intro t ht
  obtain ⟨u, hu, rfl⟩ := storeValue_next.1 ht
  obtain ⟨u', hu', huu⟩ := h.handleWrite hu
  rw [← h.resolve_eq hr.left] at hu'
  exact ⟨_, storeValue_next.2 ⟨u', hu', rfl⟩, huu.setOk true, rfl⟩

theorem shiftOperand {g g' : Byte → Byte × Bool} (h : SameRegisters s s')
    (hr : ReadAlike (modifyAccesses m (fun v => (g v).1) s) s s') (hg : g' = g) :
    AnswersAlike (shiftOperand m g s) (shiftOperand m g' s') := by
  subst hg
  intro t ht
  obtain ⟨v, u, hv, hu, rfl⟩ := shiftOperand_next.1 ht
  obtain ⟨u', hu', huu⟩ := (h.setFlag .c rfl).handleWrite hu
  rw [← h.resolve_eq hr.of_modify.left] at hu'
  rw [← h.operandRead_eq hr.of_modify] at hv
  exact ⟨_, shiftOperand_next.2 ⟨v, u', hv, hu', rfl⟩, (huu.setNZ rfl).setOk true, rfl⟩

theorem adjustOperand {g : Byte → Byte} (h : SameRegisters s s') (hr : ReadAlike (modifyAccesses m g s) s s') :
    AnswersAlike (adjustOperand m g s) (adjustOperand m g s') := by
  intro t ht
  obtain ⟨v, u, hv, hu, rfl⟩ := adjustOperand_next.1 ht
  obtain ⟨u', hu', huu⟩ := h.handleWrite hu
  rw [← h.resolve_eq hr.of_modify.left] at hu'
  rw [← h.operandRead_eq hr.of_modify] at hv
  exact ⟨_, adjustOperand_next.2 ⟨v, u', hv, hu', rfl⟩, (huu.setNZ rfl).setOk true, rfl⟩

theorem withTarget {k k' : Addr → State} (h : SameRegisters s s') (hr : ReadAlike (resolverAccesses m s) s s')
    (hk : ∀ b, SameRegisters (k b) (k' b)) : AnswersAlike (withTarget m s k) (withTarget m s' k') := by
  intro t ht
  obtain ⟨b, hb, rfl⟩ := withTarget_next.1 ht
  rw [← h.resolve_eq hr] at hb
  exact ⟨_, withTarget_next.2 ⟨b, hb, rfl⟩, (hk b).setOk true, rfl⟩

theorem branchIf {cond cond' : Bool} (h : SameRegisters s s') (hr : ReadAlike (resolverAccesses m s) s s')
    (hcond : cond' = cond) : AnswersAlike (branchIf cond m s) (branchIf cond' m s') := by
  subst hcond
  cases cond'
  · exact h.complete
  · exact h.withTarget hr fun b => h.setPc rfl

/-! BRK's trap and the return from it. -/

theorem enterBreak {c : Config} (h : SameRegisters s s') (hr : ReadAlike (execAccesses c .brk s) s s') :
    SameRegisters (s.enterBreak c) (s'.enterBreak c) := by
  have hpc : (s'.enterBreak c).pc = (s.enterBreak c).pc := by
    rw [State.enterBreak_pc, State.enterBreak_pc, h.pc]
    split
    · next hvector => rw [execAccesses, if_pos hvector] at hr; rw [hr.right.read16]
    · rfl
  exact mk (by simp [h.a]) (by simp [h.x]) (by simp [h.y]) (by simp [h.sp]) hpc (by simp [h.p])

theorem leaveBreak (h : SameRegisters s s') (hr : ReadAlike (popAccesses s 3) s s') :
    SameRegisters s.leaveBreak s'.leaveBreak := by
  have hpulled := h.pop_snd.setP (congrArg pulledStatus (h.pop_fst hr))
  exact hpulled.pop16_snd.setPc (hpulled.pop16_fst (n := 0) hr.tail)

end SameRegisters

/-- An instruction's access list depends on the registers and on the reads it lists only. -/
theorem execAccesses_eq {c : Config} {i : Instr} {s s' : State} (h : SameRegisters s s')
    (hr : ReadAlike (execAccesses c i s) s s') : execAccesses c i s' = execAccesses c i s := by
  cases i with
  | lda m | ldx m | ldy m | adc m | sbc m | cmp m | cpx m | cpy m | and m | ora m | eor m | bit m =>
    exact h.valueAccesses_eq hr
  | sta m => exact h.storeAccesses_eq hr h.a
  | stx m => exact h.storeAccesses_eq hr h.x
  | sty m => exact h.storeAccesses_eq hr h.y
  | asl m | lsr m | inc m | dec m => exact h.modifyAccesses_eq hr rfl
  | rol m | ror m => exact h.modifyAccesses_eq hr (by rw [h.flag])
  | bcc m | bcs m | bne m | beq m | bpl m | bmi m | bvc m | bvs m | jmp m => exact h.resolverAccesses_eq m
  | jsr m => rw [execAccesses, h.resolverAccesses_eq, h.pushAccesses_eq, h.pc, execAccesses]
  | rts | rti | pla | plp => exact h.popAccesses_eq _
  | pha => rw [execAccesses, h.pushAccesses_eq, h.a, execAccesses]
  | php => rw [execAccesses, h.pushAccesses_eq, h.p, execAccesses]
  | brk => rw [execAccesses, h.pushAccesses_eq, h.pc, h.p, execAccesses]
  | tax | tay | tsx | txa | tya | txs | inx | iny | dex | dey | clc | sec | cld | sed | cli | sei | clv | nop
  | null op => rfl

/-- Every meaning but BRK's, which takes parameters, depends on the registers and on its listed reads only. -/
theorem exec_answersAlike {c : Config} {i : Instr} {s s' : State} (hbrk : i ≠ .brk) (h : SameRegisters s s')
    (hr : ReadAlike (execAccesses c i s) s s') : AnswersAlike (exec i s) (exec i s') := by
  cases i with
  | lda m => exact h.withValue hr fun v => (h.setA rfl).setNZ rfl
  | ldx m => exact h.withValue hr fun v => (h.setX rfl).setNZ rfl
  | ldy m => exact h.withValue hr fun v => (h.setY rfl).setNZ rfl
  | sta m => exact h.storeValue hr h.a
  | stx m => exact h.storeValue hr h.x
  | sty m => exact h.storeValue hr h.y
  | tax => exact ((h.setX h.a).setNZ h.a).complete
  | tay => exact ((h.setY h.a).setNZ h.a).complete
  | tsx => exact ((h.setX h.sp).setNZ h.sp).complete
  | txa => exact ((h.setA h.x).setNZ h.x).complete
  | tya => exact ((h.setA h.y).setNZ h.y).complete
  | txs => exact (h.setSp h.x).complete
  | adc m | sbc m => exact h.withValue hr fun v => h.takeSum (by rw [h.a, h.flag])
  | cmp m => exact h.withValue hr fun v => h.compare v h.a
  | cpx m => exact h.withValue hr fun v => h.compare v h.x
  | cpy m => exact h.withValue hr fun v => h.compare v h.y
  | and m | ora m | eor m => exact h.withValue hr fun v => (h.setA (by rw [h.a])).setNZ (by rw [h.a])
  | bit m =>
    exact h.withValue hr fun v => ((h.setFlag .z (by rw [h.a])).setFlag .n rfl).setFlag .v rfl
  | asl m | lsr m => exact h.shiftOperand hr rfl
  | rol m | ror m => exact h.shiftOperand hr (by rw [h.flag])
  | inc m | dec m => exact h.adjustOperand hr
  | inx | dex => exact ((h.setX (by rw [h.x])).setNZ (by rw [h.x])).complete
  | iny | dey => exact ((h.setY (by rw [h.y])).setNZ (by rw [h.y])).complete
  | bcc m | bcs m | bne m | beq m | bpl m | bmi m | bvc m | bvs m => exact h.branchIf hr (by rw [h.flag])
  | jmp m => exact h.withTarget hr fun b => h.setPc rfl
  | jsr m => exact h.withTarget hr.left fun b => (h.push16 _ _).setPc rfl
  | rts => exact (h.pop16_snd.setPc (by rw [h.pop16_fst (n := 0) hr])).complete
  | rti => exact (h.leaveBreak hr).complete
  | pha | php => exact (h.push _ _).complete
  | pla => exact ((h.pop_snd.setA (h.pop_fst hr)).setNZ (h.pop_fst hr)).complete
  | plp => exact (h.pop_snd.setP (congrArg pulledStatus (h.pop_fst hr))).complete
  | clc | sec | cld | sed | cli | sei | clv => exact (h.setFlag _ rfl).complete
  | brk => exact absurd rfl hbrk
  | nop => exact h.complete
  | null op => exact h.halt

theorem execWith_answersAlike {c : Config} {i : Instr} {s s' : State} (h : SameRegisters s s')
    (hr : ReadAlike (execAccesses c i s) s s') : AnswersAlike (execWith c i s) (execWith c i s') := by
  by_cases hbrk : i = .brk
  · subst hbrk
    have htrap := h.enterBreak hr
    rw [execWith_brk, execWith_brk, execBrkWith, execBrkWith]
    cases c.brkHalts
    · exact htrap.complete
    · exact htrap.halt
  · rw [execWith_of_ne hbrk, execWith_of_ne hbrk]
    exact exec_answersAlike hbrk h hr

/-- The fetch reads the decoded instruction's own bytes only (R59, point 1). -/
theorem fetchInstr_eq {s s' : State} (h : SameRegisters s s') (hr : ReadAlike (fetchAccesses s) s s') :
    s'.fetchInstr = s.fetchInstr := by
  have hbyte : ∀ k, k < s.fetchInstr.length →
      s'.memRead (s.pc + BitVec.ofNat 16 k) = s.memRead (s.pc + BitVec.ofNat 16 k) := fun k hk =>
    hr _ (List.mem_map.2 ⟨k, List.mem_range.2 hk, rfl⟩)
  have hop : s'.memRead s.pc = s.memRead s.pc := by
    simpa using hbyte 0 (Mode.length_pos _)
  rw [State.fetchInstr, h.pc, hop]
  exact decodeBytes_congr (hbyte 1) (hbyte 2)

theorem fetchAccesses_eq {s s' : State} (h : SameRegisters s s') (hr : ReadAlike (fetchAccesses s) s s') :
    fetchAccesses s' = fetchAccesses s := by
  rw [fetchAccesses, fetchInstr_eq h hr, h.pc, fetchAccesses]

/-! ### The statements of 20_memory.md -/

/-- Settles O55: the fetch reads only, and the meaning writes what its access list writes (`execWith_mem`). -/
theorem stepWritesExactlyItsAccesses : Obligations.StepWritesExactlyItsAccesses := by
  intro c s t h
  rw [stepAccesses, Memory.after_append, Memory.after_fetchAccesses]
  exact execWith_mem h

/-- Settles O56: the fetch decodes the same instruction, and that reads alike past its bytes. -/
theorem stepReadsOnlyItsAccesses : Obligations.StepReadsOnlyItsAccesses := by
  intro c s s' t h hreads ht
  have hr : ReadAlike (stepAccesses c s) s s' := hreads
  have hfetch := fetchInstr_eq h hr.left
  have hpast : SameRegisters (s.advancePast s.fetchInstr) (s'.advancePast s.fetchInstr) := h.setPc (by rw [h.pc])
  obtain ⟨t', ht', hregs, hok⟩ := execWith_answersAlike hpast hr.right t ht
  refine ⟨t', ?_, hregs, hok, ?_⟩
  · rw [stepWith, hfetch]; exact ht'
  · rw [stepAccesses, fetchAccesses_eq h hr.left, hfetch, execAccesses_eq hpast hr.right, stepAccesses]

/-- Settles O3: R50 and R51 as read after write, with SP's wrap as a sum modulo 256. -/
theorem pushAndPopFollowTheStackRules : Obligations.PushAndPopFollowTheStackRules := by
  intro s v
  have hpush : (s.push v).memRead (slot s.sp) = v := by
    rw [slot_eq_stackAddr, State.memRead_push_same]
  have hdown : (s.push v).sp.toNat = (s.sp.toNat + 255) % 256 := by
    rw [State.push_sp]; bv_omega
  have hup : s.pop.2.sp.toNat = (s.sp.toNat + 1) % 256 := BitVec.toNat_add s.sp 1
  have hslot : stackAddr s.pop.2.sp = BitVec.ofNat 16 (256 + (s.sp.toNat + 1) % 256) := by
    rw [← slot_eq_stackAddr, slot, hup]
  exact ⟨⟨hpush, hdown, .push s v, rfl⟩, congrArg s.memRead hslot, hup, .setSp s _, rfl⟩

/-- Settles O4: the two slots of R52 are different, and R53 reads them back. -/
theorem push16ThenPop16GivesTheValueBack : Obligations.Push16ThenPop16GivesTheValueBack := by
  intro s w
  have hhigh : (s.push16 w).memRead (slot s.sp) = highByte w := by
    rw [slot_eq_stackAddr, State.memRead_push16_high]
  have hlow : (s.push16 w).memRead (slot (s.sp - 1)) = lowByte w := by
    rw [slot_eq_stackAddr, State.memRead_push16_low]
  exact ⟨hhigh, hlow, .push16 s w, s.push16_pc w, s.pop16_push16_fst w, s.pop16_push16_sp w⟩

/-- Settles O19: the step fetches what was stored (`State.fetchInstr_placeAtPc`) and runs it. -/
theorem storedBytesAreFetched : Obligations.StoredBytesAreFetched := by
  intro s b0 b1 b2
  have hfetch := s.fetchInstr_placeAtPc b0 b1 b2
  exact ⟨hfetch, by rw [step, hfetch]⟩

/-- Settles O1: read after write at the address and at every other one. -/
theorem writeSetsOneCellOnly : Obligations.WriteSetsOneCellOnly :=
  fun s addr v => ⟨s.memRead_memWrite_same addr v, .memWrite s addr v, rfl, rfl⟩

end Sys2Proof.Claims

/-! PROOFS of the statements about encoding and the step (30_encoding.md). -/

namespace Sys2Proof.Machine

/-! ### The decode table and the Encodings entries are the same map -/

/-- Each Encodings entry of files 41 to 49 stands in the grid of R73. -/
theorem decodeEntry_of_mem_encodings (o : Operation) : ∀ e ∈ o.encodings, decodeEntry e.2 = some (o, e.1) := by
  cases o <;> decide +kernel

theorem decodeEntry_of_opcodeOf {o : Operation} {m : Mode} {op : Byte} (h : opcodeOf o m = some op) :
    decodeEntry op = some (o, m) := by
  obtain ⟨⟨m', op'⟩, hfind, rfl⟩ := Option.map_eq_some_iff.1 h
  obtain rfl : m' = m := by simpa using List.find?_some hfind
  exact decodeEntry_of_mem_encodings o _ (List.mem_of_find?_eq_some hfind)

/-- Each entry of the grid is an Encodings entry of its operation. -/
theorem decodeEntry_opcodes (op : Byte) : (decodeEntry op).all (fun e => opcodeOf e.1 e.2 = some op) = true := by
  revert op; decide +kernel

theorem opcodeOf_of_decodeEntry {o : Operation} {m : Mode} {op : Byte} (h : decodeEntry op = some (o, m)) :
    opcodeOf o m = some op := by
  simpa [h] using decodeEntry_opcodes op

theorem decodeEntry_eq_some_iff {o : Operation} {m : Mode} {op : Byte} :
    decodeEntry op = some (o, m) ↔ opcodeOf o m = some op :=
  ⟨opcodeOf_of_decodeEntry, decodeEntry_of_opcodeOf⟩

/-- Only JMP, 0x6C, has the mode Indirect (R82). -/
theorem opcodeOf_indirect_iff {o : Operation} {op : Byte} :
    opcodeOf o .indirect = some op ↔ op = 0x6C ∧ o = .jmp := by
  cases o with
  | jmp => exact ⟨fun h => ⟨(Option.some.inj h).symm, rfl⟩, fun h => h.1 ▸ rfl⟩
  | _ => exact ⟨nofun, nofun⟩

theorem decodeEntry_legal {op : Byte} {o : Operation} {m : Mode} (h : decodeEntry op = some (o, m)) :
    o.legalModes.contains m = true := by
  simpa only [h, Option.all_some] using decodeEntry_modes_legal op

/-- The list of R74 names the grid's null entries only. -/
theorem decodeEntry_none_of_nullOpcodes (op : Byte) :
    nullOpcodes.contains op.toNat = true → decodeEntry op = none := by
  revert op; decide +kernel

theorem decodeEntry_eq_none_iff {op : Byte} : decodeEntry op = none ↔ op.toNat ∈ nullOpcodes := by
  rw [← List.contains_iff_mem]
  exact ⟨nullOpcodes_of_decodeEntry_none op, decodeEntry_none_of_nullOpcodes op⟩

/-! ### Instructions and their parts -/

theorem Instr.eq_null_of_parts {i : Instr} {op : Byte} (h : i.parts = .inl op) : i = .null op := by
  cases i with
  | null op' => exact congrArg Instr.null (Sum.inl.inj h)
  | _ => cases h

theorem Instr.eq_withOperand_of_parts {i : Instr} {o : Operation} {m : Operand} (h : i.parts = .inr (o, m)) :
    i = o.withOperand m := by
  cases i <;> cases h <;> rfl

theorem Instr.length_of_parts {i : Instr} {o : Operation} {m : Operand} (h : i.parts = .inr (o, m)) :
    i.length = m.mode.length := by
  rw [Instr.length, Instr.operand, h]

/-- A decoded instruction has the operation and the mode of its opcode's entry. -/
theorem decodeBytes_parts {op : Byte} {o : Operation} {m : Mode} (h : decodeEntry op = some (o, m)) (b1 b2 : Byte) :
    (decodeBytes op b1 b2).parts = .inr (o, m.withBytes b1 b2) := by
  rw [decodeBytes_of_some h]
  exact Operation.parts_withOperand ((Mode.mode_withBytes m b1 b2).symm ▸ decodeEntry_legal h)

theorem decodeBytes_eq_null_iff {op b1 b2 : Byte} : decodeBytes op b1 b2 = .null op ↔ decodeEntry op = none := by
  refine ⟨fun hnull => ?_, fun h => decodeBytes_of_none h b1 b2⟩
  cases hentry : decodeEntry op with
  | none => rfl
  | some entry => simpa [hnull, Instr.parts] using decodeBytes_parts hentry b1 b2

/-! ### An operand and its bytes -/

/-- An operand is read back from its bytes, whatever follows them (R71). -/
theorem Operand.withBytes_bytes (m : Operand) (rest : List Byte) :
    m.mode.withBytes ((m.bytes ++ rest).getD 0 0) ((m.bytes ++ rest).getD 1 0) = m := by
  cases m <;> simp [Operand.mode, Operand.bytes, Mode.withBytes]

/-- A mode's operand has the bytes it was read from, if the list holds as many (R71). -/
theorem Mode.bytes_withBytes {m : Mode} {l : List Byte} (h : m.length ≤ l.length + 1) :
    (m.withBytes (l.getD 0 0) (l.getD 1 0)).bytes = l.take (m.length - 1) := by
  cases m with
  | implicit | accumulator => rfl
  | immediate | indirectX | indirectY | relative | zeropage | zeropageX | zeropageY =>
    obtain _ | ⟨b1, l⟩ := l
    · exact absurd h (by decide)
    · rfl
  | absolute | absoluteX | absoluteY | indirect =>
    obtain _ | ⟨b1, _ | ⟨b2, l⟩⟩ := l
    · exact absurd h (by decide)
    · exact absurd h (by simp [Mode.length])
    · simp [Mode.withBytes, Operand.bytes, Mode.length]

/-! ### The decoder on a list of bytes, and the encoder -/

/-- What `decode` accepts: an opcode byte and at least the operand bytes of its instruction. -/
theorem decode_cons_eq_ok {op : Byte} {l rest : List Byte} {i : Instr} :
    decode (op :: l) = .ok (i, rest) ↔
      decodeBytes op (l.getD 0 0) (l.getD 1 0) = i ∧ i.length ≤ l.length + 1 ∧ l.drop (i.length - 1) = rest := by
  constructor
  · intro h
    rw [decode] at h
    split at h
    · cases h
    · next hlen => cases h; exact ⟨rfl, by omega, rfl⟩
  · rintro ⟨rfl, hlen, rfl⟩
    exact if_neg (by omega)

theorem encode_of_parts {i : Instr} {o : Operation} {m : Operand} {op : Byte} (h : i.parts = .inr (o, m))
    (hop : opcodeOf o m.mode = some op) : encode i = op :: m.bytes := by
  rw [encode, h]
  simp only [hop]

/-- The decoder undoes the encoder, a null entry being its opcode byte alone (R71, R74). -/
theorem decode_encode {i : Instr} (hwf : i.wf = true) (rest : List Byte) :
    decode (encode i ++ rest) = .ok (i, rest) := by
  cases hparts : i.parts with
  | inl op =>
    obtain rfl := Instr.eq_null_of_parts hparts
    have hentry := decodeEntry_none_of_nullOpcodes op hwf
    exact decode_cons_eq_ok.2 ⟨decodeBytes_of_none hentry _ _, Nat.le_add_left 1 _, rfl⟩
  | inr om =>
    obtain ⟨o, m⟩ := om
    have hlegal : o.legalModes.contains m.mode = true := by rwa [Instr.wf, hparts] at hwf
    obtain ⟨op, hop⟩ := Option.isSome_iff_exists.1 (Laws.EncodedLength.opcode_of_legal o m.mode hlegal)
    have hlen : m.bytes.length + 1 = i.length := by
      rw [Laws.EncodedLength.bytes_length, Instr.length_of_parts hparts]
    rw [encode_of_parts hparts hop, List.cons_append]
    refine decode_cons_eq_ok.2 ⟨?_, ?_, ?_⟩
    · rw [decodeBytes_of_some (decodeEntry_of_opcodeOf hop), Operand.withBytes_bytes,
        Instr.eq_withOperand_of_parts hparts]
    · rw [List.length_append]; omega
    · rw [← hlen, Nat.add_sub_cancel, List.drop_left]

/-- The encoder gives back the bytes that the decoder took off the list (R71, R73). -/
theorem encode_decodeBytes {op : Byte} {l : List Byte} {i : Instr}
    (hi : decodeBytes op (l.getD 0 0) (l.getD 1 0) = i) (h : i.length ≤ l.length + 1) :
    encode i = op :: l.take (i.length - 1) := by
  cases hentry : decodeEntry op with
  | none => rw [← hi, decodeBytes_of_none hentry]; rfl
  | some entry =>
    obtain ⟨o, m⟩ := entry
    have hlen : i.length = m.length := by rw [← hi, decodeBytes_length hentry]
    have hparts : i.parts = .inr (o, m.withBytes (l.getD 0 0) (l.getD 1 0)) := hi ▸ decodeBytes_parts hentry _ _
    have hop : opcodeOf o (m.withBytes (l.getD 0 0) (l.getD 1 0)).mode = some op := by
      rw [Mode.mode_withBytes, opcodeOf_of_decodeEntry hentry]
    rw [encode_of_parts hparts hop, Mode.bytes_withBytes (hlen ▸ h), hlen]

/-- The step fetches what `decode` reads from the three bytes at PC (R75, R92). -/
theorem State.fetchInstr_of_decode {s : State} {i : Instr} {rest : List Byte}
    (h : decode [s.memRead s.pc, s.memRead (s.pc + 1), s.memRead (s.pc + 2)] = .ok (i, rest)) : s.fetchInstr = i :=
  (decode_cons_eq_ok.1 h).1

/-! ### The step -/

theorem execWith_specValues (i : Instr) (s : State) : execWith Config.specValues i s = exec i s := by
  by_cases hbrk : i = .brk
  · subst hbrk; exact execWith_brk _ s
  · exact execWith_of_ne hbrk _ s

/-! ### Addresses and bytes as numbers -/

theorem joinBytes_eq_ofNat (hi lo : Byte) : joinBytes hi lo = BitVec.ofNat 16 (lo.toNat + 256 * hi.toNat) := by
  rw [Nat.add_comm, ← joinBytes_toNat, BitVec.ofNat_toNat, BitVec.setWidth_eq]

theorem zext16_toNat (v : Byte) : (zext16 v).toNat = v.toNat :=
  BitVec.toNat_setWidth_of_le (by decide)

theorem zext16_add_toNat (v w : Byte) : (zext16 (v + w)).toNat = (v.toNat + w.toNat) % 256 := by
  rw [zext16_toNat, BitVec.toNat_add]

/-- An index is added modulo 65536: the carry into the high byte is kept (R79, R80, R84). -/
theorem add_zext16_toNat (b : Addr) (v : Byte) : (b + zext16 v).toNat = (b.toNat + v.toNat) % 65536 := by
  rw [BitVec.toNat_add, zext16_toNat]

/-- Sign extension keeps the signed value. -/
theorem sext16_eq_ofInt (v : Byte) : sext16 v = BitVec.ofInt 16 v.toInt := by
  revert v; decide +kernel

theorem sext16_toInt (v : Byte) : (sext16 v).toInt = v.toInt :=
  (congrArg BitVec.toInt (sext16_eq_ofInt v)).trans (BitVec.toInt_signExtend_of_le (by decide))

@[simp] theorem lowByte_sext16 (v : Byte) : lowByte (sext16 v) = v := by
  revert v; decide +kernel

/-- A signed offset is added modulo 65536 (R85). -/
theorem add_sext16_toNat (b : Addr) (v : Byte) :
    ((b + sext16 v).toNat : Int) = ((b.toNat : Int) + v.toInt) % 65536 := by
  rw [sext16_eq_ofInt, BitVec.toNat_add, BitVec.toNat_ofInt]
  omega

/-- The sign extensions of the bytes are the 16-bit values of -128..127. -/
theorem exists_sext16_eq_iff (d : Addr) : (∃ v, sext16 v = d) ↔ -128 ≤ d.toInt ∧ d.toInt ≤ 127 := by
  constructor
  · rintro ⟨v, rfl⟩
    rw [sext16_toInt]
    have hlow := BitVec.le_toInt v
    have hhigh := BitVec.toInt_lt (x := v)
    omega
  · rintro ⟨hlow, hhigh⟩
    refine ⟨lowByte d, BitVec.eq_of_toInt_eq ?_⟩
    calc (sext16 (lowByte d)).toInt
      _ = (d.toNat : Int).bmod 256 := by rw [sext16_toInt, lowByte, BitVec.toInt_setWidth]
      _ = d.toInt.bmod 256 := by rw [BitVec.toInt_eq_toNat_bmod, Int.bmod_bmod_of_dvd (by decide)]
      _ = d.toInt := Int.bmod_eq_of_le (by omega) (by omega)

/-- `w AND 0xFF00` is the start of the page of `w`. -/
theorem and_page_toNat (w : Addr) : (w &&& 0xFF00).toNat = w.toNat / 256 * 256 := by
  have hand : w &&& 0xFF00 = joinBytes (highByte w) 0 :=
    calc w &&& 0xFF00
      _ = joinBytes (highByte w) (lowByte w) &&& joinBytes 0xFF 0 := by rw [joinBytes_high_low]; rfl
      _ = joinBytes (highByte w &&& 0xFF) (lowByte w &&& 0) := BitVec.and_append
      _ = joinBytes (highByte w) 0 := congrArg₂ joinBytes BitVec.and_allOnes BitVec.and_zero
  rw [hand, joinBytes_toNat, highByte_toNat, Nat.mul_comm]
  exact Nat.add_zero _

/-- Indirect reads the high byte of its pointer in the page of the low byte (R82). -/
theorem indirectHighAddr_toNat (a : Addr) :
    (indirectHighAddr a).toNat = a.toNat / 256 * 256 + (a.toNat + 1) % 256 := by
  have hlow : lowByte a = 0xFF ↔ a.toNat % 256 = 255 := by
    rw [← lowByte_toNat, ← BitVec.toNat_inj]; rfl
  rw [indirectHighAddr]
  split
  · next h =>
    have hlast := hlow.1 h
    rw [and_page_toNat]
    omega
  · next h =>
    have hnot := mt hlow.2 h
    bv_omega

/-! ### The offset byte of a branch -/

theorem branchTarget_eq_iff {b target : Addr} {off : Byte} :
    branchTarget b off = target ↔ sext16 off = target - (b + 2) := by
  rw [branchTarget, eq_sub_iff_add_eq, add_comm]

/-- The offset byte is the one that spells the target, and there is one at most (R85, R95). -/
theorem branchOffset_eq_some_iff {b target : Addr} {off : Byte} :
    branchOffset b target = some off ↔ branchTarget b off = target := by
  constructor
  · intro h
    rw [branchOffset] at h
    split at h
    · next htarget => rwa [← Option.some.inj h]
    · cases h
  · intro h
    have hoff : lowByte (target - (b + 2)) = off := by rw [← branchTarget_eq_iff.1 h, lowByte_sext16]
    rw [branchOffset, hoff]
    exact if_pos h

/-! ### Targets of the control transfers -/

theorem Operand.exists_relative_of_mode {m : Operand} (h : m.mode = .relative) : ∃ off, m = .relative off := by
  cases m <;> simp [Operand.mode] at h ⊢

theorem Instr.jmp_wf_iff {m : Operand} :
    (Instr.jmp m).wf = true ↔ (∃ a, m = .absolute a) ∨ ∃ a, m = .indirect a := by
  cases m <;> simp [Instr.wf, Instr.parts, Operation.legalModes, Operand.mode]

theorem Instr.jsr_wf_iff {m : Operand} : (Instr.jsr m).wf = true ↔ ∃ a, m = .absolute a := by
  cases m <;> simp [Instr.wf, Instr.parts, Operation.legalModes, Operand.mode]

/-- An operation that has the Relative mode only takes an offset byte. -/
theorem Instr.exists_relative_of_wf {i : Instr} {o : Operation} {m : Operand} (hparts : i.parts = .inr (o, m))
    (ho : o.legalModes = [.relative]) (hwf : i.wf = true) : ∃ off, m = .relative off := by
  rw [Instr.wf, hparts] at hwf
  exact Operand.exists_relative_of_mode (by simpa [ho] using hwf)

theorem State.leaveBreak_pc (s : State) :
    s.leaveBreak.pc = joinBytes (s.memRead (stackAddr (s.sp + 3))) (s.memRead (stackAddr (s.sp + 2))) := by
  have h2 : s.sp + 1 + 1 = s.sp + 2 := BitVec.add_assoc s.sp 1 1
  have h3 : s.sp + 2 + 1 = s.sp + 3 := BitVec.add_assoc s.sp 2 1
  rw [State.leaveBreak, State.setPc_pc, State.pop16_fst, State.setP_sp, State.pop_sp, h2, h3]
  rfl

theorem withTarget_pc {m : Operand} {s t : State} {k : Addr → State} {a : Addr} (h : withTarget m s k = .next t)
    (hm : resolve m s = .memory a) : t.pc = (k a).pc := by
  obtain ⟨b, hb, rfl⟩ := withTarget_next.1 h
  rw [State.setOk_pc, Handle.memory.inj (hm.symm.trans hb)]

theorem exec_jmp_pc {m : Operand} {s t : State} {a : Addr} (h : exec (.jmp m) s = .next t)
    (hm : resolve m s = .memory a) : t.pc = a :=
  withTarget_pc (k := s.setPc) h hm

theorem exec_jsr_pc {m : Operand} {s t : State} {a : Addr} (h : exec (.jsr m) s = .next t)
    (hm : resolve m s = .memory a) : t.pc = a :=
  withTarget_pc (k := (s.push16 (s.pc - 1)).setPc) h hm

theorem branchIf_pc {cond : Bool} {off : Byte} {s t : State} (h : branchIf cond (.relative off) s = .next t) :
    t.pc = if cond then s.pc + sext16 off else s.pc := by
  rcases branchIf_next.1 h with ⟨rfl, rfl⟩ | ⟨rfl, a, ha, rfl⟩
  · rfl
  · exact (Handle.memory.inj ha).symm

end Sys2Proof.Machine

namespace Sys2Proof.Claims

open Sys2Proof.Machine

/-! ### The frame of a write to A -/

theorem OnlyChanges.setA (s : State) (v : Byte) : OnlyChanges [.a] [] [] s (s.setA v) := by
  refine ⟨fun r hr => ?_, fun _ _ => rfl, fun _ _ => rfl⟩
  cases r with
  | a => exact absurd List.mem_cons_self hr
  | x | y | sp => rfl

/-! ### The resolver's answers as numbers -/

theorem byteAt_of_toNat (s : State) {b : Addr} {n : Nat} (h : b.toNat = n) : byteAt s n = (s.memRead b).toNat := by
  rw [byteAt, ← h, BitVec.ofNat_toNat, BitVec.setWidth_eq]

theorem byteAt_toNat_succ (s : State) (b : Addr) : byteAt s (b.toNat + 1) = (s.memRead (b + 1)).toNat := by
  rw [byteAt, BitVec.ofNat_add, BitVec.ofNat_toNat, BitVec.setWidth_eq]; rfl

/-- The little-endian pair at PC (R44, R71). -/
theorem operandWord_toNat (s : State) :
    (joinBytes (s.memRead (s.pc + 1)) (s.memRead s.pc)).toNat =
      byteAt s s.pc.toNat + 256 * byteAt s (s.pc.toNat + 1) := by
  rw [joinBytes_toNat, byteAt_of_toNat s rfl, byteAt_toNat_succ, Nat.add_comm]

/-- A pointer read from two addresses, as a number (R45). -/
theorem read16_toNat_of_addrs (s : State) {lo hi : Addr} {m n : Nat} (hm : lo.toNat = m) (hn : hi.toNat = n) :
    (s.read16 lo hi).toNat = byteAt s m + 256 * byteAt s n := by
  rw [State.read16, joinBytes_toNat, byteAt_of_toNat s hm, byteAt_of_toNat s hn, Nat.add_comm]

theorem read16_eq_ofNat (s : State) {lo hi : Addr} {m n : Nat} (hm : lo.toNat = m) (hn : hi.toNat = n) :
    s.read16 lo hi = BitVec.ofNat 16 (byteAt s m + 256 * byteAt s n) := by
  rw [← read16_toNat_of_addrs s hm hn, BitVec.ofNat_toNat, BitVec.setWidth_eq]

/-! ### PC after an instruction -/

/-- An instruction that is no control transfer leaves PC past its bytes (R94). -/
theorem exec_pc_of_no_transfer {i : Instr} {s t : State} (hwf : i.wf = true) (hi : transfersControl i = false)
    (h : exec i s = .next t) : t.pc = s.pc := by
  obtain ⟨-, -, -, -, -, hpc⟩ := (exec_listedUpdates hwf h).frame
  exact hpc hi

theorem exec_rts_pc {s t : State} (h : exec .rts s = .next t) :
    t.pc = BitVec.ofNat 16
      ((s.memRead (slot (s.sp + 1))).toNat + 256 * (s.memRead (slot (s.sp + 2))).toNat + 1) := by
  have h2 : s.sp + 1 + 1 = s.sp + 2 := BitVec.add_assoc s.sp 1 1
  rw [complete_next.1 h, State.setOk_pc, State.setPc_pc, State.pop16_fst, h2, joinBytes_eq_ofNat, slot_eq_stackAddr,
    slot_eq_stackAddr]
  exact (BitVec.ofNat_add _ 1).symm

theorem exec_rti_pc {s t : State} (h : exec .rti s = .next t) :
    t.pc = BitVec.ofNat 16 ((s.memRead (slot (s.sp + 2))).toNat + 256 * (s.memRead (slot (s.sp + 3))).toNat) := by
  rw [complete_next.1 h, State.setOk_pc, State.leaveBreak_pc, joinBytes_eq_ofNat, slot_eq_stackAddr, slot_eq_stackAddr]

/-- Where the branch at `s.pc` goes, from its two bytes (R94). -/
theorem branchIf_pc_of_start {cond : Bool} {off : Byte} {s t : State}
    (h : branchIf cond (.relative off) (s.setPc (s.pc + 2)) = .next t) :
    t.pc = if cond then BitVec.ofInt 16 (s.pc.toNat + 2 + off.toInt) else s.pc + 2 := by
  rw [branchIf_pc h, State.setPc_pc, sext16_eq_ofInt, BitVec.ofInt_add, BitVec.ofInt_add, BitVec.ofInt_natCast,
    BitVec.ofNat_toNat, BitVec.setWidth_eq]
  rfl

theorem stepWith_brk_pc {c : Config} {s t : State} (h : stepWith c s = .next t) (hbrk : s.fetchInstr = .brk) :
    t.pc = if c.brkLoadsVector then s.read16 0xFFFE 0xFFFF else s.pc + 1 := by
  rcases stepWith_cases h with ⟨-, ok, rfl⟩ | ⟨hne, -⟩
  · exact State.enterBreak_pc (s.advancePast .brk) c
  · exact absurd hbrk hne

/-! ### The statements of 30_encoding.md -/

/-- Settles O13: the two tables are one map, and an operand is read back from its bytes (`decode_encode`). -/
theorem decodeOfEncodeIsTheInstruction : Obligations.DecodeOfEncodeIsTheInstruction :=
  fun _ rest hwf => decode_encode hwf rest

/-- Settles O14: the encoder gives the bytes that the decoder took, and the rest is the others. -/
theorem encodeOfDecodeIsTheBytes : Obligations.EncodeOfDecodeIsTheBytes := by
  intro bytes i rest h
  cases bytes with
  | nil => cases h
  | cons op l =>
    obtain ⟨hi, hlen, rfl⟩ := decode_cons_eq_ok.1 h
    refine ⟨hi ▸ decodeBytes_wf op _ _, ?_⟩
    rw [encode_decodeBytes hi hlen, List.cons_append, List.take_append_drop]

/-- Settles O24: BRK apart, whose parameters say where it goes, by the instruction: a control transfer goes to its
target, and any other leaves PC past its bytes. -/
theorem pcAfterAStep : Obligations.PcAfterAStep := by
  intro c s t h
  by_cases hbrk : s.fetchInstr = .brk
  · rw [stepWith_brk_pc h hbrk, pcAfter, hbrk, read16_eq_ofNat s rfl rfl]
    rfl
  have hwf := s.fetchInstr_wf
  rw [stepWith, execWith_of_ne hbrk] at h
  unfold pcAfter
  generalize s.fetchInstr = i at h hwf hbrk ⊢
  cases i with
  | jmp m =>
    obtain ⟨a, rfl⟩ | ⟨a, rfl⟩ := Instr.jmp_wf_iff.1 hwf
    · exact exec_jmp_pc h rfl
    · rw [exec_jmp_pc h rfl]
      exact read16_eq_ofNat s rfl (indirectHighAddr_toNat a)
  | jsr m =>
    obtain ⟨a, rfl⟩ := Instr.jsr_wf_iff.1 hwf
    exact exec_jsr_pc h rfl
  | rts => exact exec_rts_pc h
  | rti => exact exec_rti_pc h
  | bcc m | bcs m | bne m | beq m | bpl m | bmi m | bvc m | bvs m =>
    obtain ⟨off, rfl⟩ := Instr.exists_relative_of_wf rfl rfl hwf
    exact branchIf_pc_of_start h
  | brk => exact absurd rfl hbrk
  | _ => exact exec_pc_of_no_transfer hwf rfl h

/-- Settles O9: each handle is the model's own sum, read as a number. -/
theorem resolverComputesTheEffectiveAddress : Obligations.ResolverComputesTheEffectiveAddress := by
  intro s
  have hb1 : byteAt s s.pc.toNat = (s.memRead s.pc).toNat := byteAt_of_toNat s rfl
  have hword := operandWord_toNat s
  dsimp only
  rw [← hword, hb1]
  have hp := zext16_add_toNat (s.memRead s.pc) s.x
  have hp1 : (zext16 (s.memRead s.pc + s.x + 1)).toNat = (((s.memRead s.pc).toNat + s.x.toNat) % 256 + 1) % 256 := by
    rw [← hp, zext16_toNat (_ + _)]; exact zext16_add_toNat _ 1
  refine ⟨?_, ⟨_, rfl, rfl⟩, ⟨_, rfl, add_zext16_toNat _ s.x⟩, ⟨_, rfl, add_zext16_toNat _ s.y⟩,
    ⟨_, rfl, zext16_toNat _⟩, ⟨_, rfl, hp⟩, ⟨_, rfl, read16_toNat_of_addrs s hp hp1⟩⟩
  rw [BitVec.ofNat_toNat, BitVec.setWidth_eq]; rfl

/-- Settles O10: as O9; the sums of IndirectY and Relative are taken modulo 65536. -/
theorem resolverComputesTheRemainingModes : Obligations.ResolverComputesTheRemainingModes := by
  intro s
  have hb1 : byteAt s s.pc.toNat = (s.memRead s.pc).toNat := byteAt_of_toNat s rfl
  dsimp only
  rw [hb1]
  have hpc : s.pc + BitVec.ofNat 16 0 = s.pc := BitVec.add_zero s.pc
  have hpointer := read16_toNat_of_addrs s (zext16_toNat (s.memRead s.pc)) (zext16_add_toNat (s.memRead s.pc) 1)
  refine ⟨congrArg (Prod.mk _) hpc, congrArg (Prod.mk _) hpc, ⟨_, rfl, ?_⟩, ⟨_, rfl, ?_⟩,
    ⟨_, rfl, zext16_add_toNat _ _⟩⟩
  · rw [add_zext16_toNat]; exact congrArg (fun n => (n + s.y.toNat) % 65536) hpointer
  · refine (add_sext16_toNat (s.pc + 1) (s.memRead s.pc)).trans ?_
    have hnext : (s.pc + 1).toNat = (s.pc.toNat + 1) % 65536 := BitVec.toNat_add s.pc 1
    omega

/-- Settles O11: the address of the pointer's high byte as a number, and the grid. -/
theorem indirectReadsItsPointerInsideOnePage : Obligations.IndirectReadsItsPointerInsideOnePage := by
  refine ⟨fun s => ?_, fun _ _ => decodeEntry_eq_some_iff.trans opcodeOf_indirect_iff⟩
  dsimp only
  rw [← operandWord_toNat]
  refine ⟨_, rfl, read16_toNat_of_addrs s rfl ?_⟩
  rw [indirectHighAddr_toNat]
  split <;> omega

/-- Settles O12: one case per variant of the handle. -/
theorem handleOperationsByVariant : Obligations.HandleOperationsByVariant := by
  intro h v s
  refine ⟨?_, fun t ht => ?_, ?_, ?_, ?_, ?_, ?_⟩
  · cases h <;> rfl
  · rcases Handle.write_ok ht with ⟨-, rfl⟩ | ⟨addr, -, rfl⟩ <;> exact ⟨rfl, rfl, rfl⟩
  · rintro rfl
    exact ⟨_, rfl, rfl, OnlyChanges.setA s v⟩
  · rintro addr rfl
    exact ⟨_, rfl, s.memRead_memWrite_same addr v, .memWrite s addr v⟩
  · cases h <;> simp [Handle.write]
  · cases h <;> simp [Handle.target]
  · cases h <;> simp [Handle.target]

/-- Settles O16: operation and mode are the entry's, and the operand depends on the bytes within the length only. -/
theorem opcodeByteAloneSelectsOperationAndMode : Obligations.OpcodeByteAloneSelectsOperationAndMode := by
  intro op b1 b2 c1 c2
  refine ⟨?_, fun hlen => (decodeBytes_congr (fun _ => rfl) fun h => absurd hlen (by omega)).symm,
    fun hlen => (decodeBytes_congr (fun h => absurd hlen (by omega)) fun h => absurd hlen (by omega)).symm⟩
  cases hentry : decodeEntry op with
  | none => rw [decodeBytes_of_none hentry, decodeBytes_of_none hentry]; exact ⟨rfl, rfl, rfl⟩
  | some entry =>
    obtain ⟨o, m⟩ := entry
    rw [decodeBytes_length hentry, decodeBytes_length hentry, Instr.operand, Instr.operand, decodeBytes_parts hentry,
      decodeBytes_parts hentry]
    exact ⟨rfl, (Mode.mode_withBytes m b1 b2).trans (Mode.mode_withBytes m c1 c2).symm, rfl⟩

/-- Settles O17: an opcode byte decodes to its null instruction where the grid has no entry. -/
theorem nullEntriesAreTheListedBytes : Obligations.NullEntriesAreTheListedBytes :=
  ⟨rfl, fun _ _ _ => decodeBytes_eq_null_iff.trans decodeEntry_eq_none_iff⟩

/-- Settles O60: the offset byte is the one whose target is the target (`branchOffset_eq_some_iff`), and those of
the bytes reach the range. -/
theorem branchOffsetReachesItsTarget : Obligations.BranchOffsetReachesItsTarget := by
  intro b target s hpc
  constructor
  · intro off
    rw [branchOffset_eq_some_iff, resolve, hpc, Handle.memory.injEq, branchTarget]
  · simp only [branchOffset_eq_some_iff, branchTarget_eq_iff, exists_sext16_eq_iff]

/-- Settles O18: the fetch decodes as `decode` does, and only BRK reads the parameters. -/
theorem stepRunsTheDecodedInstruction : Obligations.StepRunsTheDecodedInstruction :=
  ⟨fun s i rest h => by rw [step, State.fetchInstr_of_decode h, State.advancePast],
    fun s => execWith_specValues _ _⟩

/-- Settles O54: a listed byte fetches its null entry, of length 1, and that halts. -/
theorem nullEntryHaltsWithOnlyPcMoved : Obligations.NullEntryHaltsWithOnlyPcMoved := by
  refine ⟨fun _ _ => rfl, fun s hop => ?_⟩
  have hfetch : s.fetchInstr = .null (s.memRead s.pc) := decodeBytes_of_none (decodeEntry_eq_none_iff.2 hop) _ _
  rw [step, hfetch]
  rfl

end Sys2Proof.Claims

/-! PROOFS of the statements about the arithmetic and logic unit (40_alu.md). -/

namespace Sys2Proof.Machine

/-! ### Bit 7 and the signed value of a byte -/

theorem bit7_eq_msb (v : Byte) : bit7 v = v.msb := v.msb_eq_getLsbD_last.symm

theorem bit7_eq_decide (v : Byte) : bit7 v = decide (128 ≤ v.toNat) :=
  (bit7_eq_msb v).trans v.msb_eq_decide

theorem toInt_eq_ite_bit7 (v : Byte) : v.toInt = if bit7 v then (v.toNat : Int) - 256 else v.toNat := by
  rw [bit7_eq_msb]; exact v.toInt_eq_msb_cond

theorem byte_sub_toNat (r m : Byte) : (r - m).toNat = (r.toNat + 256 - m.toNat) % 256 := by
  rw [BitVec.toNat_sub]; omega

/-! ### The adder's outputs -/

theorem add8_r_toNat (a b : Byte) (cin : Bool) : (add8 a b cin).r.toNat = (a.toNat + b.toNat + cin.toNat) % 256 :=
  BitVec.toNat_ofNat _ 8

theorem add8_c (a b : Byte) (cin : Bool) : (add8 a b cin).c = decide (256 ≤ a.toNat + b.toNat + cin.toNat) := rfl

theorem add8_v (a b : Byte) (cin : Bool) :
    (add8 a b cin).v = (decide (bit7 a = bit7 b) && decide (bit7 (add8 a b cin).r ≠ bit7 a)) := by
  rw [decide_not]; rfl

/-- V is the overflow of the signed sum (R111): operands of different signs never leave the range, and those of one
sign leave it exactly when the result has the other. -/
theorem add8_v_eq_outOfRange (a b : Byte) (cin : Bool) :
    (add8 a b cin).v = Claims.outOfRange (a.toInt + b.toInt + cin.toNat) := by
  have hr := add8_r_toNat a b cin
  have hcin := cin.toNat_le
  have ha := a.isLt
  have hb := b.isLt
  rw [add8_v, Claims.outOfRange, ← Bool.decide_and, decide_eq_decide]
  simp only [toInt_eq_ite_bit7, bit7_eq_decide, hr, decide_eq_decide, decide_eq_true_eq, ne_eq]
  split <;> split <;> omega

/-! ### The shifter -/

theorem asl8_fst_toNat (v : Byte) : (asl8 v).1.toNat = 2 * v.toNat % 256 := by
  rw [asl8, BitVec.toNat_shiftLeft, Nat.shiftLeft_eq, Nat.mul_comm]

theorem lsr8_fst_toNat (v : Byte) : (lsr8 v).1.toNat = v.toNat / 2 := by
  rw [lsr8, BitVec.toNat_ushiftRight, Nat.shiftRight_eq_div_pow]

/-- The carry in fills the bit that the shift leaves 0, so the OR is a sum. -/
theorem rol8_fst_toNat (v : Byte) (cin : Bool) : (rol8 v cin).1.toNat = 2 * v.toNat % 256 + cin.toNat := by
  have hshift : (asl8 v).1.toNat = 2 ^ 1 * (v.toNat % 128) := by rw [asl8_fst_toNat]; omega
  have hcin : (if cin then (0x01 : Byte) else 0x00).toNat = cin.toNat := by cases cin <;> rfl
  calc (rol8 v cin).1.toNat
    _ = 2 ^ 1 * (v.toNat % 128) ||| cin.toNat := by rw [← hshift, ← hcin]; exact BitVec.toNat_or _ _
    _ = 2 ^ 1 * (v.toNat % 128) + cin.toNat := (Nat.two_pow_add_eq_or_of_lt cin.toNat_lt _).symm
    _ = 2 * v.toNat % 256 + cin.toNat := by rw [← hshift, asl8_fst_toNat]

theorem ror8_fst_toNat (v : Byte) (cin : Bool) : (ror8 v cin).1.toNat = v.toNat / 2 + 128 * cin.toNat := by
  have hcin : (if cin then (0x80 : Byte) else 0x00).toNat = 2 ^ 7 * cin.toNat := by cases cin <;> rfl
  have hlt : v.toNat / 2 < 2 ^ 7 := by omega
  calc (ror8 v cin).1.toNat
    _ = v.toNat / 2 ||| 2 ^ 7 * cin.toNat := by rw [← lsr8_fst_toNat, ← hcin]; exact BitVec.toNat_or _ _
    _ = 2 ^ 7 * cin.toNat + v.toNat / 2 := by rw [Nat.or_comm, Nat.two_pow_add_eq_or_of_lt hlt]
    _ = v.toNat / 2 + 128 * cin.toNat := Nat.add_comm _ _

end Sys2Proof.Machine

namespace Sys2Proof.Claims

open Sys2Proof.Machine

/-! ### The frames of SetNZ and Compare -/

namespace OnlyChanges

theorem setFlag (s : State) (f : Flag) (on : Bool) : OnlyChanges [] [f] [] s (s.setFlag f on) := by
  refine ⟨fun r _ => by cases r <;> rfl, fun g hg => ?_, fun _ _ => rfl⟩
  rw [State.flag_setFlag, if_neg fun h => hg (List.mem_singleton.2 h)]

theorem setNZ (s : State) (v : Byte) : OnlyChanges [] [.z, .n] [] s (s.setNZ v) :=
  (setFlag s .z _).trans (setFlag _ .n _)

theorem compare (s : State) (r m : Byte) : OnlyChanges [] [.c, .z, .n] [] s (s.compare r m) :=
  ((setFlag s .c _).trans (setFlag _ .z _)).trans (setFlag _ .n _)

end OnlyChanges

/-! ### Z and N as numbers -/

/-- What R110 says of the bits of `v` is what it says of its number. -/
theorem nzFrom_iff {v : Byte} {t : State} : NZFrom v t ↔ t.flag .z = decide (v = 0) ∧ t.flag .n = bit7 v := by
  rw [NZFrom, bit7_eq_decide, decide_eq_decide.2 (BitVec.toNat_eq (y := 0))]; rfl

theorem nzFrom_setNZ (s : State) (v : Byte) : NZFrom v (s.setNZ v) :=
  nzFrom_iff.2 ⟨s.flag_setNZ v .z, s.flag_setNZ v .n⟩

/-- Settles O6: the signed clause is `add8_v_eq_outOfRange`. -/
theorem adderGivesSumCarryOverflow : Obligations.AdderGivesSumCarryOverflow :=
  fun a b cin => ⟨add8_r_toNat a b cin, add8_c a b cin, add8_v a b cin, add8_v_eq_outOfRange a b cin⟩

/-- Settles O7: three flag updates, their values read as numbers. -/
theorem compareWritesThreeFlags : Obligations.CompareWritesThreeFlags := by
  intro s r m
  refine ⟨s.flag_compare r m .c, ?_, ?_, .compare s r m, rfl⟩
  · exact (s.flag_compare r m .z).trans (decide_eq_decide.2 BitVec.toNat_eq)
  · rw [s.flag_compare r m .n, bit7_eq_decide, byte_sub_toNat]

/-- Settles O5: two flag updates, their values read as numbers. -/
theorem setNZWritesTwoFlags : Obligations.SetNZWritesTwoFlags :=
  fun s v => ⟨nzFrom_setNZ s v, .setNZ s v, rfl, rfl⟩

/-- Settles O8: the results as numbers; the carries are the definitions'. -/
theorem shifterFollowsItsTable : Obligations.ShifterFollowsItsTable :=
  fun v cin => ⟨⟨asl8_fst_toNat v, rfl⟩, ⟨lsr8_fst_toNat v, rfl⟩, ⟨rol8_fst_toNat v cin, rfl⟩,
    ⟨ror8_fst_toNat v cin, rfl⟩⟩

end Sys2Proof.Claims

/-! PROOFS of the statements about loads and stores (41_load_store.md). -/

namespace Sys2Proof.Machine

/-! ### The operand of a well-formed instruction -/

/-- A well-formed instruction has no operand of a mode that its operation lacks. -/
theorem Instr.mode_ne_of_wf {i : Instr} {o : Operation} {m : Operand} {d : Mode} (hparts : i.parts = .inr (o, m))
    (ho : o.legalModes.contains d = false) (hwf : i.wf = true) : m.mode ≠ d := by
  rintro rfl
  rw [Instr.wf, hparts] at hwf
  exact Bool.false_ne_true (ho.symm.trans hwf)

/-- Every operand but Implicit gives a value (R89). -/
theorem exists_read_resolve {m : Operand} (h : m.mode ≠ .implicit) (s : State) : ∃ v, (resolve m s).read s = .ok v := by
  cases m with
  | implicit => exact absurd rfl h
  | _ => exact ⟨_, rfl⟩

/-- The three modes that do not resolve to an address are Implicit, Accumulator and Immediate (R75 to R88). -/
theorem exists_resolve_eq_memory_of_wf {i : Instr} {o : Operation} {m : Operand} (hparts : i.parts = .inr (o, m))
    (ho : ∀ d ∈ [Mode.implicit, .accumulator, .immediate], o.legalModes.contains d = false) (hwf : i.wf = true)
    (s : State) : ∃ addr, resolve m s = .memory addr := by
  have hmode : ∀ d ∈ [Mode.implicit, .accumulator, .immediate], m.mode ≠ d := fun d hd =>
    Instr.mode_ne_of_wf hparts (ho d hd) hwf
  cases m with
  | implicit | accumulator | immediate v => exact absurd rfl (hmode _ (by simp [Operand.mode]))
  | _ => exact ⟨_, rfl⟩

end Sys2Proof.Machine

namespace Sys2Proof.Claims

open Sys2Proof.Machine

/-! ### A register by its name -/

/-- The write that `Reg.get` reads back. -/
def Reg.set : Reg → Byte → State → State
  | .a, v, s => s.setA v
  | .x, v, s => s.setX v
  | .y, v, s => s.setY v
  | .sp, v, s => s.setSp v

theorem Reg.get_set (r r' : Reg) (v : Byte) (s : State) : r'.get (r.set v s) = if r' = r then v else r'.get s := by
  cases r <;> cases r' <;> rfl

@[simp] theorem Reg.set_pc (r : Reg) (v : Byte) (s : State) : (r.set v s).pc = s.pc := by cases r <;> rfl
@[simp] theorem Reg.set_p (r : Reg) (v : Byte) (s : State) : (r.set v s).p = s.p := by cases r <;> rfl
@[simp] theorem Reg.set_mem (r : Reg) (v : Byte) (s : State) : (r.set v s).mem = s.mem := by cases r <;> rfl

@[simp] theorem Reg.get_setNZ (r : Reg) (s : State) (v : Byte) : r.get (s.setNZ v) = r.get s := by cases r <;> rfl
@[simp] theorem Reg.get_setOk (r : Reg) (s : State) (b : Bool) : r.get (s.setOk b) = r.get s := by cases r <;> rfl

namespace OnlyChanges

variable {rs : List Reg} {fs : List Flag} {bs : List Addr} {s t : State}

theorem setReg (s : State) (r : Reg) (v : Byte) : OnlyChanges [r] [] [] s (r.set v s) :=
  ⟨fun r' hr => by rw [Reg.get_set, if_neg fun h => hr (List.mem_singleton.2 h)],
    fun f _ => State.flag_congr (r.set_p v s) f, fun b _ => State.memRead_congr (r.set_mem v s) b⟩

/-- The frame does not speak of the outcome bit. -/
theorem setOk (h : OnlyChanges rs fs bs s t) (b : Bool) : OnlyChanges rs fs bs s (t.setOk b) := by
  obtain ⟨hreg, hflag, hmem⟩ := h
  exact ⟨fun r hr => (r.get_setOk t b).trans (hreg r hr), hflag, hmem⟩

end OnlyChanges

/-! ### The operand forms that complete -/

section OperandForms

variable {i : Instr} {m : Operand} {s : State}

theorem completes_of_withValue {k : Byte → State} {v : Byte} (hexec : exec i s = withValue m s k)
    (hv : (resolve m s).read s = .ok v) : Completes i s ((k v).setOk true) :=
  ⟨hexec.trans (withValue_next.2 ⟨v, hv, rfl⟩), rfl⟩

theorem completes_of_storeValue {v : Byte} {addr : Addr} (hexec : exec i s = storeValue m v s)
    (haddr : resolve m s = .memory addr) : Completes i s ((s.memWrite addr v).setOk true) :=
  ⟨hexec.trans (storeValue_next.2 ⟨_, by rw [haddr, Handle.write], rfl⟩), rfl⟩

end OperandForms

/-! ### The statements of 41_load_store.md -/

/-- Settles O30: every load is one form, and no load has the Implicit mode, the only one that gives no value. -/
theorem loadsWriteTheRegisterAndNZ : Obligations.LoadsWriteTheRegisterAndNZ := by
  intro mk dst hmk m s hwf
  have hform : exec (mk m) s = withValue m s (fun v => (dst.set v s).setNZ v) ∧ m.mode ≠ .implicit := by
    simp only [List.mem_cons, Prod.mk.injEq, List.not_mem_nil, or_false] at hmk
    rcases hmk with ⟨rfl, rfl⟩ | ⟨rfl, rfl⟩ | ⟨rfl, rfl⟩ <;> exact ⟨rfl, Instr.mode_ne_of_wf rfl rfl hwf⟩
  obtain ⟨hexec, himplicit⟩ := hform
  obtain ⟨v, hv⟩ := exists_read_resolve himplicit s
  have hframe : OnlyChanges [dst] [.z, .n] [] s ((dst.set v s).setNZ v) :=
    (OnlyChanges.setReg s dst v).trans (.setNZ _ v)
  exact ⟨v, _, hv, completes_of_withValue hexec hv, by simp [Reg.get_set], nzFrom_setNZ _ v, hframe.setOk true, by simp⟩

/-- Settles O31: every store is one form, and the modes that it has resolve to an address. -/
theorem storesWriteOneByteAndNoFlag : Obligations.StoresWriteOneByteAndNoFlag := by
  intro mk src hmk m s hwf
  have hform : exec (mk m) s = storeValue m (src.get s) s ∧ ∃ addr, resolve m s = .memory addr := by
    simp only [List.mem_cons, Prod.mk.injEq, List.not_mem_nil, or_false] at hmk
    rcases hmk with ⟨rfl, rfl⟩ | ⟨rfl, rfl⟩ | ⟨rfl, rfl⟩ <;>
      exact ⟨rfl, exists_resolve_eq_memory_of_wf rfl (by decide) hwf s⟩
  obtain ⟨hexec, hresolves⟩ := hform
  refine ⟨hresolves, fun addr haddr => ⟨_, completes_of_storeValue hexec haddr, ?_, ?_, rfl⟩⟩
  · exact s.memRead_memWrite_same addr _
  · exact (OnlyChanges.memWrite s addr _).setOk true

end Sys2Proof.Claims

/-! PROOFS of the statements about register transfers (42_transfers.md). -/

namespace Sys2Proof.Claims

open Sys2Proof.Machine

/-! ### The register form that completes -/

section RegisterForm

variable {i : Instr} {s : State}

theorem completes_of_complete {t : State} (hexec : exec i s = complete t) : Completes i s (t.setOk true) :=
  ⟨hexec, rfl⟩

/-- A byte to a register and SetNZ of it: what the form leaves in the register, in Z and N, and in the rest. -/
theorem completes_of_setReg_setNZ {dst : Reg} {v : Byte} (hexec : exec i s = complete ((dst.set v s).setNZ v)) :
    ∃ t, Completes i s t ∧ dst.get t = v ∧ NZFrom v t ∧ OnlyChanges [dst] [.z, .n] [] s t ∧ t.pc = s.pc := by
  have hframe : OnlyChanges [dst] [.z, .n] [] s ((dst.set v s).setNZ v) :=
    (OnlyChanges.setReg s dst v).trans (.setNZ _ v)
  exact ⟨_, completes_of_complete hexec, by simp [Reg.get_set], nzFrom_setNZ _ v, hframe.setOk true, by simp⟩

end RegisterForm

/-! ### The statement of 42_transfers.md -/

/-- Settles O32: five transfers are one form, with SetNZ of the source; TXS writes SP alone. -/
theorem transfersCopyARegister : Obligations.TransfersCopyARegister := by
  intro s
  constructor
  · intro i src dst hi
    have hexec : exec i s = complete ((dst.set (src.get s) s).setNZ (src.get s)) := by
      simp only [List.mem_cons, Prod.mk.injEq, List.not_mem_nil, or_false] at hi
      rcases hi with ⟨rfl, rfl, rfl⟩ | ⟨rfl, rfl, rfl⟩ | ⟨rfl, rfl, rfl⟩ | ⟨rfl, rfl, rfl⟩ | ⟨rfl, rfl, rfl⟩ <;> rfl
    exact completes_of_setReg_setNZ hexec
  · have hexec : exec .txs s = complete (s.setSp s.x) := rfl
    exact ⟨_, completes_of_complete hexec, rfl, (OnlyChanges.setSp s s.x).setOk true, rfl⟩

end Sys2Proof.Claims

/-! PROOFS of the statements about arithmetic and compares (43_arithmetic_compare.md). -/

namespace Sys2Proof.Machine

/-! ### The adder fed with the complement: subtraction with borrow (40_alu.md R112) -/

theorem byte_not_toNat (v : Byte) : ((~~~v).toNat : Int) = 255 - v.toNat := by
  rw [BitVec.toNat_not]; omega

/-- The complement flips the sign bit, and with it which of the two readings `toInt` takes. -/
theorem byte_not_toInt (v : Byte) : (~~~v).toInt = -v.toInt - 1 := by
  have hnot := byte_not_toNat v
  simp only [toInt_eq_ite_bit7, bit7_eq_decide, decide_eq_true_eq]
  split <;> split <;> omega

/-- The sum is the difference plus 256, which the result does not show. -/
theorem add8_not_r_toNat (a v : Byte) (cin : Bool) :
    ((add8 a (~~~v) cin).r.toNat : Int) = ((a.toNat : Int) - v.toNat - (1 - cin.toNat)) % 256 := by
  have hr := add8_r_toNat a (~~~v) cin
  have hnot := byte_not_toNat v
  omega

/-- The sum carries exactly when the difference does not borrow. -/
theorem add8_not_c (a v : Byte) (cin : Bool) :
    (add8 a (~~~v) cin).c = decide (0 ≤ (a.toNat : Int) - v.toNat - (1 - cin.toNat)) := by
  have hnot := byte_not_toNat v
  rw [add8_c, decide_eq_decide]
  omega

theorem add8_not_v (a v : Byte) (cin : Bool) :
    (add8 a (~~~v) cin).v = Claims.outOfRange (a.toInt - v.toInt - (1 - cin.toNat)) := by
  have hsum : a.toInt + (~~~v).toInt + cin.toNat = a.toInt - v.toInt - (1 - cin.toNat) := by
    rw [byte_not_toInt]; ring
  rw [add8_v_eq_outOfRange, hsum]

end Sys2Proof.Machine

namespace Sys2Proof.Claims

open Sys2Proof.Machine

/-! ### The form that ADC and SBC share -/

theorem OnlyChanges.takeSum (s : State) (o : AddOut) : OnlyChanges [.a] [.c, .v, .z, .n] [] s (s.takeSum o) :=
  (((setA s o.r).trans (setFlag _ .c _)).trans (setFlag _ .v _)).trans (setNZ _ _)

theorem nzFrom_takeSum (s : State) (o : AddOut) : NZFrom (s.takeSum o).a (s.takeSum o) := nzFrom_setNZ _ o.r

/-- The adder's outputs to A, C and V: what the form leaves there, in Z and N, and in the rest. -/
theorem completes_of_takeSum {i : Instr} {m : Operand} {s : State} {o : Byte → AddOut}
    (hexec : exec i s = withValue m s fun v => s.takeSum (o v)) (himplicit : m.mode ≠ .implicit) :
    ∃ v t, (resolve m s).read s = .ok v ∧ Completes i s t ∧ t.a = (o v).r ∧ t.flag .c = (o v).c ∧
      t.flag .v = (o v).v ∧ NZFrom t.a t ∧ OnlyChanges [.a] [.c, .v, .z, .n] [] s t ∧ t.pc = s.pc := by
  obtain ⟨v, hv⟩ := exists_read_resolve himplicit s
  exact ⟨v, _, hv, completes_of_withValue hexec hv, rfl, s.flag_takeSum (o v) .c, s.flag_takeSum (o v) .v,
    nzFrom_takeSum s (o v), (OnlyChanges.takeSum s (o v)).setOk true, rfl⟩

/-! ### The statements of 43_arithmetic_compare.md -/

/-- Settles O33: the adder's outputs, read as numbers. -/
theorem adcAddsOperandAndCarry : Obligations.AdcAddsOperandAndCarry := by
  intro m s hwf
  obtain ⟨v, t, hv, hcompletes, ha, hc, hvflag, hrest⟩ :=
    completes_of_takeSum (i := .adc m) rfl (Instr.mode_ne_of_wf rfl rfl hwf)
  refine ⟨v, t, hv, hcompletes, ?_, ?_, ?_, hrest⟩
  · rw [ha, add8_r_toNat]
  · rw [hc, add8_c]
  · rw [hvflag, add8_v_eq_outOfRange]

/-- Settles O34: the adder's outputs for the operand's complement, read as a difference. -/
theorem sbcSubtractsOperandAndBorrow : Obligations.SbcSubtractsOperandAndBorrow := by
  intro m s hwf
  obtain ⟨v, t, hv, hcompletes, ha, hc, hvflag, hrest⟩ :=
    completes_of_takeSum (i := .sbc m) rfl (Instr.mode_ne_of_wf rfl rfl hwf)
  refine ⟨v, t, hv, hcompletes, ?_, ?_, ?_, hrest⟩
  · rw [ha, add8_not_r_toNat]
  · rw [hc, add8_not_c]
  · rw [hvflag, add8_not_v]

/-- Settles O35: every compare is one form, `State.compare` of its register and the operand (O7). -/
theorem comparesSetThreeFlags : Obligations.ComparesSetThreeFlags := by
  intro mk src hmk m s hwf
  have hform : exec (mk m) s = withValue m s (fun v => s.compare (src.get s) v) ∧ m.mode ≠ .implicit := by
    simp only [List.mem_cons, Prod.mk.injEq, List.not_mem_nil, or_false] at hmk
    rcases hmk with ⟨rfl, rfl⟩ | ⟨rfl, rfl⟩ | ⟨rfl, rfl⟩ <;> exact ⟨rfl, Instr.mode_ne_of_wf rfl rfl hwf⟩
  obtain ⟨hexec, himplicit⟩ := hform
  obtain ⟨v, hv⟩ := exists_read_resolve himplicit s
  obtain ⟨hc, -, hn, hframe, hpc⟩ := compareWritesThreeFlags s (src.get s) v
  exact ⟨v, _, hv, completes_of_withValue hexec hv, hc, s.flag_compare (src.get s) v .z, hn, hframe.setOk true, hpc⟩

end Sys2Proof.Claims

/-! PROOFS of the statements about logical operations and BIT (44_logical.md). -/

namespace Sys2Proof.Claims

open Sys2Proof.Machine

/-! ### A masked byte, and the flags that BIT writes -/

theorem byte_and_eq_zero_iff (a v : Byte) : a &&& v = 0 ↔ ∀ k, k < 8 → (a.getLsbD k && v.getLsbD k) = false := by
  rw [BitVec.eq_of_getLsbD_eq_iff]
  simp only [BitVec.getLsbD_and, BitVec.ofNat_eq_ofNat, BitVec.getLsbD_zero]

/-- What BIT leaves for its operand `v`: the state that `execBit` gives to `withValue`. -/
def bitTested (s : State) (v : Byte) : State :=
  ((s.setFlag .z (s.a &&& v = 0)).setFlag .n (v.getLsbD 7)).setFlag .v (v.getLsbD 6)

theorem flag_bitTested (s : State) (v : Byte) (g : Flag) :
    (bitTested s v).flag g = match g with
      | .z => decide (s.a &&& v = 0)
      | .n => v.getLsbD 7
      | .v => v.getLsbD 6
      | g => s.flag g := by
  cases g <;> simp [bitTested]

theorem OnlyChanges.bitTested (s : State) (v : Byte) : OnlyChanges [] [.z, .n, .v] [] s (bitTested s v) :=
  ((setFlag s .z _).trans (setFlag _ .n _)).trans (setFlag _ .v _)

/-! ### The statements of 44_logical.md -/

/-- Settles O36: the three are one form, with an operation on bytes that acts bit by bit. -/
theorem logicCombinesBitByBit : Obligations.LogicCombinesBitByBit := by
  intro mk f hmk m s hwf
  have hform : ∃ op : Byte → Byte → Byte,
      exec (mk m) s = withValue m s (fun v => (s.setA (op s.a v)).setNZ (op s.a v)) ∧
      (∀ a v k, (op a v).getLsbD k = f (a.getLsbD k) (v.getLsbD k)) ∧ m.mode ≠ .implicit := by
    rcases hmk with ⟨rfl, rfl⟩ | ⟨rfl, rfl⟩ | ⟨rfl, rfl⟩
    · exact ⟨(· &&& ·), rfl, fun _ _ _ => BitVec.getLsbD_and, Instr.mode_ne_of_wf rfl rfl hwf⟩
    · exact ⟨(· ||| ·), rfl, fun _ _ _ => BitVec.getLsbD_or, Instr.mode_ne_of_wf rfl rfl hwf⟩
    · exact ⟨(· ^^^ ·), rfl, fun _ _ _ => BitVec.getLsbD_xor, Instr.mode_ne_of_wf rfl rfl hwf⟩
  obtain ⟨op, hexec, hbits, himplicit⟩ := hform
  obtain ⟨v, hv⟩ := exists_read_resolve himplicit s
  have hframe : OnlyChanges [.a] [.z, .n] [] s ((s.setA (op s.a v)).setNZ (op s.a v)) :=
    (OnlyChanges.setA s _).trans (.setNZ _ _)
  exact ⟨v, _, hv, completes_of_withValue hexec hv, fun k _ => hbits s.a v k, nzFrom_setNZ _ (op s.a v),
    hframe.setOk true, rfl⟩

/-- Settles O37: three flag updates; Z is set when no bit is set in both A and the operand. -/
theorem bitTestsWithoutWritingA : Obligations.BitTestsWithoutWritingA := by
  intro m s hwf
  have hexec : exec (.bit m) s = withValue m s (bitTested s) := rfl
  obtain ⟨v, hv⟩ := exists_read_resolve (Instr.mode_ne_of_wf rfl rfl hwf) s
  have hz : (bitTested s v).flag .z = true ↔ ∀ k, k < 8 → (s.a.getLsbD k && v.getLsbD k) = false := by
    rw [flag_bitTested s v .z, decide_eq_true_iff, byte_and_eq_zero_iff]
  exact ⟨v, _, hv, completes_of_withValue hexec hv, hz, flag_bitTested s v .n, flag_bitTested s v .v,
    (OnlyChanges.bitTested s v).setOk true, rfl⟩

end Sys2Proof.Claims

/-! PROOFS of the statement about shifts and rotates (45_shift_rotate.md). -/

namespace Sys2Proof.Machine

theorem getLsbD_zero_eq_decide (v : Byte) : v.getLsbD 0 = decide (v.toNat % 2 = 1) := Nat.testBit_zero v.toNat

end Sys2Proof.Machine

namespace Sys2Proof.Claims

open Sys2Proof.Machine

/-! ### The four instructions as one form -/

/-- An instruction that `shiftRule` speaks of is `shiftOperand` with a function of the shifter and the old C, and
that function gives the rule's numbers (40_alu.md R115). -/
theorem exists_shift_of_shiftRule {mk : Operand → Instr} {v : Byte} {cin : Bool} {out : Nat × Bool}
    (h : shiftRule mk v.toNat cin.toNat out) :
    ∃ g : Byte → Bool → Byte × Bool, (∀ m s, exec (mk m) s = shiftOperand m (fun w => g w (s.flag .c)) s) ∧
      (g v cin).1.toNat = out.1 ∧ (g v cin).2 = out.2 := by
  rcases h with ⟨rfl, rfl⟩ | ⟨rfl, rfl⟩ | ⟨rfl, rfl⟩ | ⟨rfl, rfl⟩
  · exact ⟨fun w _ => asl8 w, fun _ _ => rfl, asl8_fst_toNat v, bit7_eq_decide v⟩
  · exact ⟨fun w _ => lsr8 w, fun _ _ => rfl, lsr8_fst_toNat v, getLsbD_zero_eq_decide v⟩
  · exact ⟨rol8, fun _ _ => rfl, rol8_fst_toNat v cin, bit7_eq_decide v⟩
  · exact ⟨ror8, fun _ _ => rfl, ror8_fst_toNat v cin, getLsbD_zero_eq_decide v⟩

/-- The form on a place it can read and write: `u` is the state after the write, which changes no flag and, of
registers and memory, only `rs` and `bs`. -/
theorem completes_of_shiftOperand {i : Instr} {m : Operand} {s u t : State} {f : Byte → Byte × Bool} {v : Byte}
    {rs : List Reg} {bs : List Addr} (hexec : exec i s = shiftOperand m f s) (hv : (resolve m s).read s = .ok v)
    (hu : (resolve m s).write (f v).1 (s.setFlag .c (f v).2) = .ok u)
    (hwrite : OnlyChanges rs [] bs (s.setFlag .c (f v).2) u) (ht : t = (u.setNZ (f v).1).setOk true) :
    Completes i s t ∧ t.flag .c = (f v).2 ∧ NZFrom (f v).1 t ∧ OnlyChanges rs [.c, .z, .n] bs s t := by
  subst ht
  have hframe : OnlyChanges rs [.c, .z, .n] bs s (u.setNZ (f v).1) :=
    (((OnlyChanges.setFlag s .c _).trans hwrite).trans (.setNZ u _)).mono (by simp) (by simp) (by simp)
  obtain ⟨-, hflag, -⟩ := hwrite
  have hc : (u.setNZ (f v).1).flag .c = (f v).2 := calc
    (u.setNZ (f v).1).flag .c
    _ = u.flag .c := u.flag_setNZ _ .c
    _ = (s.setFlag .c (f v).2).flag .c := hflag .c List.not_mem_nil
    _ = (f v).2 := by rw [State.flag_setFlag, if_pos rfl]
  exact ⟨⟨hexec.trans (shiftOperand_next.2 ⟨v, u, hv, hu, rfl⟩), rfl⟩, hc, nzFrom_setNZ u _, hframe.setOk true⟩

/-! ### The statement of 45_shift_rotate.md -/

/-- Settles O38: the four are one form, written back to A or to the cell at the operand's address. -/
theorem shiftsMoveOneBitThroughCarry : Obligations.ShiftsMoveOneBitThroughCarry := by
  intro mk s
  constructor
  · intro out hrule
    obtain ⟨g, hexec, hvalue, hcarry⟩ := exists_shift_of_shiftRule hrule
    obtain ⟨hcompletes, hc, hnz, hframe⟩ :=
      completes_of_shiftOperand (hexec .accumulator s) rfl rfl (OnlyChanges.setA _ _) rfl
    exact ⟨_, hcompletes, hvalue, hc.trans hcarry, hnz, hframe, rfl⟩
  · intro m addr out haddr hrule
    obtain ⟨g, hexec, hvalue, hcarry⟩ := exists_shift_of_shiftRule hrule
    obtain ⟨hcompletes, hc, hnz, hframe⟩ :=
      completes_of_shiftOperand (hexec m s) (by rw [haddr, Handle.read]) (by rw [haddr, Handle.write])
        (OnlyChanges.memWrite _ addr _) rfl
    have hcell : ∀ (u : State) (w : Byte), (((u.memWrite addr w).setNZ w).setOk true).memRead addr = w := fun u w =>
      u.memRead_memWrite_same addr w
    exact ⟨_, hcompletes, by rw [hcell]; exact hvalue, hc.trans hcarry, by rw [hcell]; exact hnz, hframe, rfl⟩

end Sys2Proof.Claims

/-! PROOFS of the statements about increments and decrements (46_inc_dec.md). -/

namespace Sys2Proof.Machine

/-! ### A step of one, as a number -/

theorem inc8_toNat (v : Byte) : (inc8 v).toNat = (v.toNat + 1) % 256 := BitVec.toNat_add v 1

theorem dec8_toNat (v : Byte) : (dec8 v).toNat = (v.toNat + 255) % 256 := byte_sub_toNat v 1

end Sys2Proof.Machine

namespace Sys2Proof.Claims

open Sys2Proof.Machine

/-! ### The form of INC and DEC that completes -/

/-- The byte `v` back to the cell it was made from, and SetNZ of it. -/
theorem completes_of_adjustOperand {i : Instr} {m : Operand} {s : State} {f : Byte → Byte} {addr : Addr} {v : Byte}
    (hexec : exec i s = adjustOperand m f s) (haddr : resolve m s = .memory addr) (hv : f (s.memRead addr) = v) :
    ∃ t, Completes i s t ∧ t.memRead addr = v ∧ NZFrom v t ∧ OnlyChanges [] [.z, .n] [addr] s t ∧ t.pc = s.pc := by
  have hread : (resolve m s).read s = .ok (s.memRead addr) := by rw [haddr, Handle.read]
  have hwrite : (resolve m s).write (f (s.memRead addr)) s = .ok (s.memWrite addr v) := by rw [haddr, hv, Handle.write]
  have hnext : exec i s = .next (((s.memWrite addr v).setNZ v).setOk true) :=
    hexec.trans (adjustOperand_next.2 ⟨_, _, hread, hwrite, by rw [hv]⟩)
  have hframe : OnlyChanges [] [.z, .n] [addr] s ((s.memWrite addr v).setNZ v) :=
    (OnlyChanges.memWrite s addr v).trans (.setNZ _ v)
  exact ⟨_, ⟨hnext, rfl⟩, s.memRead_memWrite_same addr v, nzFrom_setNZ _ v, hframe.setOk true, rfl⟩

/-! ### The statements of 46_inc_dec.md -/

/-- Settles O39: the two are one form, and the modes that they have resolve to an address. -/
theorem incAndDecChangeOneByte : Obligations.IncAndDecChangeOneByte := by
  intro mk k hmk m s hwf
  have hform : ∃ f : Byte → Byte, exec (mk m) s = adjustOperand m f s ∧
      (∀ v, (f v).toNat = (v.toNat + k) % 256) ∧ ∃ addr, resolve m s = .memory addr := by
    simp only [List.mem_cons, Prod.mk.injEq, List.not_mem_nil, or_false] at hmk
    rcases hmk with ⟨rfl, rfl⟩ | ⟨rfl, rfl⟩
    · exact ⟨inc8, rfl, inc8_toNat, exists_resolve_eq_memory_of_wf rfl (by decide) hwf s⟩
    · exact ⟨dec8, rfl, dec8_toNat, exists_resolve_eq_memory_of_wf rfl (by decide) hwf s⟩
  obtain ⟨f, hexec, hvalue, hresolves⟩ := hform
  refine ⟨hresolves, fun addr haddr => ?_⟩
  obtain ⟨t, hcompletes, hcell, hnz, hrest⟩ := completes_of_adjustOperand hexec haddr rfl
  exact ⟨t, hcompletes, by rw [hcell, hvalue], hcell ▸ hnz, hrest⟩

/-- Settles O40: the four are the form of the transfers, with the register's own value stepped by one. -/
theorem registerStepsWrapAndSetNZ : Obligations.RegisterStepsWrapAndSetNZ := by
  intro i dst k hi s
  have hform : ∃ f : Byte → Byte, exec i s = complete ((dst.set (f (dst.get s)) s).setNZ (f (dst.get s))) ∧
      ∀ v, (f v).toNat = (v.toNat + k) % 256 := by
    simp only [List.mem_cons, Prod.mk.injEq, List.not_mem_nil, or_false] at hi
    rcases hi with ⟨rfl, rfl, rfl⟩ | ⟨rfl, rfl, rfl⟩ | ⟨rfl, rfl, rfl⟩ | ⟨rfl, rfl, rfl⟩
    · exact ⟨inc8, rfl, inc8_toNat⟩
    · exact ⟨inc8, rfl, inc8_toNat⟩
    · exact ⟨dec8, rfl, dec8_toNat⟩
    · exact ⟨dec8, rfl, dec8_toNat⟩
  obtain ⟨f, hexec, hvalue⟩ := hform
  obtain ⟨t, hcompletes, hreg, hnz, hrest⟩ := completes_of_setReg_setNZ hexec
  exact ⟨t, hcompletes, by rw [hreg, hvalue], hreg ▸ hnz, hrest⟩

end Sys2Proof.Claims

/-! PROOFS of the statement about conditional branches (47_branches.md). -/

namespace Sys2Proof.Machine

/-- A branch on an offset byte always completes, and sets PC alone (R190). -/
theorem branchIf_relative (cond : Bool) (off : Byte) (s : State) :
    branchIf cond (.relative off) s = complete (s.setPc (if cond then s.pc + sext16 off else s.pc)) := by
  cases cond <;> rfl

end Sys2Proof.Machine

namespace Sys2Proof.Claims

open Sys2Proof.Machine

/-- The frame does not speak of PC. -/
theorem OnlyChanges.setPc (s : State) (a : Addr) : OnlyChanges [] [] [] s (s.setPc a) :=
  ⟨fun r _ => by cases r <;> rfl, fun _ _ => rfl, fun _ _ => rfl⟩

/-- Settles O41: the eight are one form, `branchIf` of an offset byte, and each tests that its flag has its value. -/
theorem branchesMovePcByTheSignedOffset : Obligations.BranchesMovePcByTheSignedOffset := by
  intro mk f on hmk m s hwf
  have hform : ∃ cond, exec (mk m) s = branchIf cond m s ∧ (cond = true ↔ s.flag f = on) ∧
      ∃ off, m = .relative off := by
    simp only [List.mem_cons, Prod.mk.injEq, List.not_mem_nil, or_false] at hmk
    rcases hmk with ⟨rfl, rfl, rfl⟩ | ⟨rfl, rfl, rfl⟩ | ⟨rfl, rfl, rfl⟩ | ⟨rfl, rfl, rfl⟩ | ⟨rfl, rfl, rfl⟩ |
      ⟨rfl, rfl, rfl⟩ | ⟨rfl, rfl, rfl⟩ | ⟨rfl, rfl, rfl⟩ <;>
      exact ⟨_, rfl, by simp only [Bool.not_eq_true'], Instr.exists_relative_of_wf rfl rfl hwf⟩
  obtain ⟨cond, hexec, hcond, off, rfl⟩ := hform
  rw [branchIf_relative] at hexec
  refine ⟨off, _, rfl, completes_of_complete hexec, (OnlyChanges.setPc s _).setOk true, fun htaken => ?_, fun hnot => ?_⟩
  · rw [State.setOk_pc, State.setPc_pc, if_pos (hcond.2 htaken), add_sext16_toNat]
  · rw [State.setOk_pc, State.setPc_pc, if_neg (mt hcond.1 hnot)]

end Sys2Proof.Claims

/-! PROOFS of the statements about jumps, calls and returns (48_jumps_calls.md). -/

namespace Sys2Proof.Machine

/-! ### The value popped, and the status restored -/

/-- A 16-bit pop depends on memory and SP only (R53). -/
theorem State.pop16_fst_congr {s t : State} (hmem : t.mem = s.mem) (hsp : t.sp = s.sp) : t.pop16.1 = s.pop16.1 := by
  rw [State.pop16_fst, State.pop16_fst, hsp, State.memRead_congr hmem, State.memRead_congr hmem]

/-- The flags of a status restored by PLP or RTI: U and B forced, the others pulled (R203, R213). -/
theorem State.flags_of_pulledStatus {t : State} {v : Byte} (h : t.p = pulledStatus v) :
    t.flag .u = true ∧ t.flag .b = false ∧ ∀ f, f ≠ .u → f ≠ .b → t.flag f = v.getLsbD f.bit := by
  have hflag : ∀ f, t.flag f = (pulledStatus v).getLsbD f.bit := fun f => by rw [State.flag, h]
  refine ⟨(hflag .u).trans (pulledStatus_getLsbD v .u), (hflag .b).trans (pulledStatus_getLsbD v .b), ?_⟩
  intro f hu hb
  rw [hflag, pulledStatus_getLsbD]
  cases f with
  | u => exact absurd rfl hu
  | b => exact absurd rfl hb
  | _ => rfl

end Sys2Proof.Machine

namespace Sys2Proof.Claims

open Sys2Proof.Machine

/-! ### The frames of the pulls -/

namespace OnlyChanges

theorem pop (s : State) : OnlyChanges [.sp] [] [] s s.pop.2 := setSp s _

theorem pop16 (s : State) : OnlyChanges [.sp] [] [] s s.pop16.2 :=
  ((pop s).trans (pop s.pop.2)).mono (by simp) (by simp) (by simp)

theorem setP (s : State) (v : Byte) : OnlyChanges [] [.n, .v, .u, .b, .d, .i, .z, .c] [] s (s.setP v) :=
  ⟨fun r _ => by cases r <;> rfl, fun f hf => absurd (by cases f <;> simp) hf, fun _ _ => rfl⟩

theorem leaveBreak (s : State) : OnlyChanges [.sp] [.n, .v, .u, .b, .d, .i, .z, .c] [] s s.leaveBreak :=
  ((((pop s).trans (setP _ _)).trans (pop16 _)).trans (setPc _ _)).mono (by simp) (by simp) (by simp)

end OnlyChanges

/-! ### JMP and JSR to an operand that resolves to an address -/

theorem completes_of_jmp {m : Operand} {s : State} {a : Addr} (hm : resolve m s = .memory a) :
    Completes (.jmp m) s ((s.setPc a).setOk true) :=
  ⟨withTarget_next.2 ⟨a, hm, rfl⟩, rfl⟩

/-- The two slots hold PC - 1, and PC is `a` (R201). -/
theorem completes_of_jsr {m : Operand} {s : State} {a : Addr} (hm : resolve m s = .memory a) :
    ∃ t, Completes (.jsr m) s t ∧ t.pc = a ∧ t.sp = s.sp - 2 ∧ t.memRead (slot s.sp) = highByte (s.pc - 1) ∧
      t.memRead (slot (s.sp - 1)) = lowByte (s.pc - 1) ∧
      OnlyChanges [.sp] [] [slot s.sp, slot (s.sp - 1)] s t := by
  obtain ⟨hhigh, hlow, hframe, -⟩ := push16ThenPop16GivesTheValueBack s (s.pc - 1)
  have hsp : (s.push16 (s.pc - 1)).sp = s.sp - 2 := by rw [State.push16_sp, BitVec.sub_sub]; rfl
  exact ⟨_, ⟨withTarget_next.2 ⟨a, hm, rfl⟩, rfl⟩, rfl, hsp, hhigh, hlow, (hframe.trans (.setPc _ a)).setOk true⟩

/-! ### The statements of 48_jumps_calls.md -/

/-- Settles O42: the two rows of the grid, and the pointer of Indirect as a number (`indirectHighAddr_toNat`). -/
theorem jmpGoesToItsTarget : Obligations.JmpGoesToItsTarget := by
  refine ⟨fun lo hi => ⟨rfl, rfl, rfl, rfl⟩, fun _ => Instr.jmp_wf_iff, fun a s => ⟨?_, ?_⟩⟩
  · exact ⟨_, completes_of_jmp rfl, rfl, (OnlyChanges.setPc s a).setOk true⟩
  · refine ⟨_, completes_of_jmp rfl, read16_toNat_of_addrs s rfl ?_, (OnlyChanges.setPc s _).setOk true⟩
    rw [indirectHighAddr_toNat]
    split <;> omega

/-- Settles O43: a 16-bit push, then PC. -/
theorem jsrPushesTheAddressOfItsLastByte : Obligations.JsrPushesTheAddressOfItsLastByte := by
  intro m s hwf
  obtain ⟨a, rfl⟩ := Instr.jsr_wf_iff.1 hwf
  obtain ⟨t, h⟩ := completes_of_jsr (m := .absolute a) (s := s) rfl
  exact ⟨a, t, rfl, h⟩

/-- Settles O44: a 16-bit pop, then PC (`exec_rts_pc`). -/
theorem rtsReturnsPastThePoppedAddress : Obligations.RtsReturnsPastThePoppedAddress := by
  intro s
  have hsp : s.pop16.2.sp = s.sp + 2 := by rw [State.pop16_sp, BitVec.add_assoc]; rfl
  refine ⟨_, completes_of_complete rfl, hsp, ?_, ((OnlyChanges.pop16 s).trans (.setPc _ _)).setOk true⟩
  rw [exec_rts_pc (s := s) rfl, BitVec.toNat_ofNat]

/-- Settles O45: the trap return `State.leaveBreak`, its PC by `exec_rti_pc`. -/
theorem rtiRestoresStatusThenPc : Obligations.RtiRestoresStatusThenPc := by
  intro s
  have hsp : s.leaveBreak.sp = s.sp + 3 := by rw [State.leaveBreak_sp, BitVec.add_assoc, BitVec.add_assoc]; rfl
  have hp : s.leaveBreak.p = pulledStatus (s.memRead (slot (s.sp + 1))) := by
    rw [State.leaveBreak_p, slot_eq_stackAddr]; rfl
  obtain ⟨hu, hb, hflags⟩ := State.flags_of_pulledStatus hp
  refine ⟨_, completes_of_complete rfl, hsp, hu, hb, hflags, ?_, (OnlyChanges.leaveBreak s).setOk true⟩
  rw [exec_rti_pc (s := s) rfl, BitVec.toNat_ofNat]
  omega

/-- Settles O46: what RTS pops is what JSR pushed, PC - 1, and RTS adds 1. -/
theorem rtsReturnsToAfterTheJsr : Obligations.RtsReturnsToAfterTheJsr := by
  intro m s t w h
  obtain ⟨a, -, rfl⟩ := withTarget_next.1 h
  have hpop : ((((s.push16 (s.pc - 1)).setPc a).setOk true).setPc w).pop16.1 = s.pc - 1 := calc
    _ = (s.push16 (s.pc - 1)).pop16.1 := State.pop16_fst_congr rfl rfl
    _ = s.pc - 1 := s.pop16_push16_fst _
  refine ⟨_, rfl, ?_, fun r => ?_, ?_⟩
  · rw [State.setOk_pc, State.setPc_pc, hpop, BitVec.sub_add_cancel]
  · cases r <;> simp [Reg.get]
  · simp

end Sys2Proof.Claims

/-! PROOFS of the statements about the stack, the flag instructions, BRK and NOP (49_stack_flags_system.md). -/

namespace Sys2Proof.Machine

/-! ### A status byte by its flags -/

/-- The eight flags are the eight bits of P (R16). -/
theorem status_eq_iff {p q : Byte} : p = q ↔ ∀ f : Flag, p.getLsbD f.bit = q.getLsbD f.bit := by
  refine ⟨fun h _ => h ▸ rfl, fun h => BitVec.eq_of_getLsbD_eq fun k hk => ?_⟩
  interval_cases k
  · exact h .c
  · exact h .z
  · exact h .i
  · exact h .d
  · exact h .b
  · exact h .u
  · exact h .v
  · exact h .n

theorem State.p_eq_iff {s t : State} : t.p = s.p ↔ ∀ f, t.flag f = s.flag f := status_eq_iff

/-! ### What BRK's trap leaves on the stack -/

/-- The status, B and I set in it, is in the third slot; the rest is as a push of PC leaves it (R221, decisions D24
and D25). -/
theorem State.enterBreak_memRead (s : State) (c : Config) (b : Addr) :
    (s.enterBreak c).memRead b =
      if stackAddr (s.sp - 2) = b then pushedStatus (putFlag s.p .i true) else (s.push16 s.pc).memRead b := by
  have hp : ((s.setFlag .i true).push16 s.pc).p = putFlag s.p .i true := State.push16_p _ _
  have hsp : ((s.setFlag .i true).push16 s.pc).sp = s.sp - 2 := by
    rw [State.push16_sp, State.setFlag_sp, BitVec.sub_sub]; rfl
  have hvector : (s.enterBreak c).memRead b =
      (((s.setFlag .i true).push16 s.pc).push (pushedStatus (putFlag s.p .i true))).memRead b := by
    simp only [State.enterBreak, State.setFlag_pc, hp]
    split <;> rfl
  rw [hvector, State.memRead_push, hsp]
  rfl

/-- Whether BRK halts is a matter of the outcome bit alone (R92, decision D2). -/
theorem execBrkWith_eq (c : Config) (s : State) :
    execBrkWith c s = .next ((s.enterBreak c).setOk (!c.brkHalts)) := by
  rw [execBrkWith]
  split
  · next h => rw [h]; rfl
  · next h => rw [Bool.eq_false_of_not_eq_true h]; rfl

end Sys2Proof.Machine

namespace Sys2Proof.Claims

open Sys2Proof.Machine

/-- The frame of BRK's trap: SP, I and the three slots. -/
theorem OnlyChanges.enterBreak (s : State) (c : Config) :
    OnlyChanges [.sp] [.i] [slot s.sp, slot (s.sp - 1), slot (s.sp - 2)] s (s.enterBreak c) := by
  refine ⟨fun r hr => ?_, fun f hf => s.flag_enterBreak c (by simpa using hf), fun b hb => ?_⟩
  · cases r with
    | sp => exact absurd List.mem_cons_self hr
    | a => exact s.enterBreak_a c
    | x => exact s.enterBreak_x c
    | y => exact s.enterBreak_y c
  · have hstatus : stackAddr (s.sp - 2) ≠ b := by
      rw [← slot_eq_stackAddr]; rintro rfl; exact hb (by simp)
    obtain ⟨-, -, hmem⟩ := OnlyChanges.push16 s s.pc
    rw [State.enterBreak_memRead, if_neg hstatus]
    exact hmem b fun h => hb (List.mem_append_left [slot (s.sp - 2)] h)

/-! ### The statements of 49_stack_flags_system.md -/

/-- Settles O47: a push of A, and of P with B set (`pushedStatus_getLsbD`). -/
theorem phaAndPhpPushOneByte : Obligations.PhaAndPhpPushOneByte := by
  intro s
  have hslot : ∀ v, (s.push v).memRead (slot s.sp) = v := fun v => by
    rw [slot_eq_stackAddr, State.memRead_push_same]
  refine ⟨⟨_, completes_of_complete rfl, hslot s.a, rfl, (OnlyChanges.push s _).setOk true, rfl⟩,
    _, completes_of_complete rfl, rfl, fun f => ?_, (OnlyChanges.push s _).setOk true, rfl⟩
  calc ((s.push (pushedStatus s.p)).memRead (slot s.sp)).getLsbD f.bit
    _ = if f = .b then true else s.flag f := by rw [hslot, pushedStatus_getLsbD, State.flag]
    _ = (s.flag f || decide (f = .b)) := by split <;> simp [*]

/-- Settles O48: a pop to A with SetNZ of it, and to P with U and B forced. -/
theorem plaAndPlpPullOneByte : Obligations.PlaAndPlpPullOneByte := by
  intro s
  have hpop : s.pop.1 = s.memRead (slot (s.sp + 1)) := by rw [slot_eq_stackAddr]; rfl
  constructor
  · have hframe : OnlyChanges [.a, .sp] [.z, .n] [] s ((s.pop.2.setA s.pop.1).setNZ s.pop.1) :=
      (((OnlyChanges.pop s).trans (.setA _ _)).trans (.setNZ _ _)).mono (by simp) (by simp) (by simp)
    exact ⟨_, completes_of_complete rfl, hpop, rfl, nzFrom_setNZ _ s.pop.1, hframe.setOk true, rfl⟩
  · have hp : (s.pop.2.setP (pulledStatus s.pop.1)).p = pulledStatus (s.memRead (slot (s.sp + 1))) := by
      rw [State.setP_p, hpop]
    obtain ⟨hu, hb, hflags⟩ := State.flags_of_pulledStatus hp
    exact ⟨_, completes_of_complete rfl, rfl, hu, hb, hflags, ((OnlyChanges.pop s).trans (.setP _ _)).setOk true, rfl⟩

/-- Settles O49: PLP (O48) of the byte that PHP pushed (O47). -/
theorem phpThenPlpRestoresStatus : Obligations.PhpThenPlpRestoresStatus := by
  intro s t h
  obtain ⟨-, t', ⟨hphp, -⟩, hsp, hpushed, -⟩ := phaAndPhpPushOneByte s
  obtain rfl : t' = t := by simpa using hphp.symm.trans h
  obtain ⟨-, u, ⟨hplp, -⟩, husp, hu, hb, hpulled, -⟩ := plaAndPlpPullOneByte t'
  have hback : t'.sp + 1 = s.sp := by rw [hsp, BitVec.sub_add_cancel]
  have hkept : ∀ f, f ≠ .u → f ≠ .b → u.flag f = s.flag f := fun f hfu hfb => by
    rw [hpulled f hfu hfb, hback, hpushed, decide_eq_false hfb, Bool.or_false]
  refine ⟨u, hplp, husp.trans hback, hu, hb, hkept, ?_⟩
  rw [State.p_eq_iff]
  constructor
  · exact fun hall => ⟨(hall .u).symm.trans hu, (hall .b).symm.trans hb⟩
  · rintro ⟨hsu, hsb⟩ f
    by_cases hfu : f = .u
    · rw [hfu, hu, hsu]
    by_cases hfb : f = .b
    · rw [hfb, hb, hsb]
    · exact hkept f hfu hfb

/-- Settles O50: the seven are one form, an update of the flag. -/
theorem flagInstructionsWriteOneFlag : Obligations.FlagInstructionsWriteOneFlag := by
  intro i f on hi s
  have hexec : exec i s = complete (s.setFlag f on) := by
    simp only [List.mem_cons, Prod.mk.injEq, List.not_mem_nil, or_false] at hi
    rcases hi with ⟨rfl, rfl, rfl⟩ | ⟨rfl, rfl, rfl⟩ | ⟨rfl, rfl, rfl⟩ | ⟨rfl, rfl, rfl⟩ | ⟨rfl, rfl, rfl⟩ |
      ⟨rfl, rfl, rfl⟩ | ⟨rfl, rfl, rfl⟩ <;> rfl
  have hflag : (s.setFlag f on).flag f = on := by rw [State.flag_setFlag, if_pos rfl]
  exact ⟨_, completes_of_complete hexec, hflag, (OnlyChanges.setFlag s f on).setOk true, rfl⟩

/-- Settles O51: the trap entry piece by piece; the outcome bit says whether it halts. -/
theorem brkEntersTheTrap : Obligations.BrkEntersTheTrap := by
  refine ⟨fun c s => ?_, fun s => ⟨_, rfl, rfl, execWith_specValues _ _⟩⟩
  have hi : (s.enterBreak c).flag .i = true := by
    rw [State.flag, State.enterBreak_p, putFlag_getLsbD, if_pos rfl]
  have hsp : (s.enterBreak c).sp = s.sp - 3 := by
    rw [State.enterBreak_sp, BitVec.sub_sub, BitVec.sub_sub]; rfl
  have hhigh : (s.enterBreak c).memRead (slot s.sp) = highByte s.pc := by
    rw [slot_eq_stackAddr, State.enterBreak_memRead, if_neg (by rw [stackAddr_inj]; bv_omega),
      State.memRead_push16_high]
  have hlow : (s.enterBreak c).memRead (slot (s.sp - 1)) = lowByte s.pc := by
    rw [slot_eq_stackAddr, State.enterBreak_memRead, if_neg (by rw [stackAddr_inj]; bv_omega),
      State.memRead_push16_low]
  have hstatus : ∀ f : Flag, ((s.enterBreak c).memRead (slot (s.sp - 2))).getLsbD f.bit =
      (s.flag f || decide (f = .b ∨ f = .i)) := fun f => by
    rw [slot_eq_stackAddr, State.enterBreak_memRead, if_pos rfl, pushedStatus_getLsbD, putFlag_getLsbD, State.flag]
    cases f <;> simp
  refine ⟨_, (execWith_brk c s).trans (execBrkWith_eq c s), rfl, hi, hsp, hhigh, hlow, hstatus,
    (OnlyChanges.enterBreak s c).setOk _, ?_⟩
  rw [State.setOk_pc, State.enterBreak_pc, read16_eq_ofNat s rfl rfl]
  rfl

/-- Settles O53: NOP's row of the grid, and its meaning. -/
theorem nopOnlyAdvancesPc : Obligations.NopOnlyAdvancesPc := by
  refine ⟨fun _ _ => ⟨rfl, rfl⟩, fun _ => rfl, fun s hop => ?_⟩
  have hfetch : s.fetchInstr = .nop := by rw [State.fetchInstr, hop]; rfl
  rw [step, hfetch]
  rfl

end Sys2Proof.Claims

/-! PROOFS of the statements about the outcomes of a step, InternalError and BRK's trap (60_exceptions.md). -/

namespace Sys2Proof.Machine

/-! ### What a handle answers, and what misuse raises -/

/-- Every operand but Implicit and Immediate gives a value and takes one (R89, R90). -/
theorem exists_read_write_resolve {m : Operand} (hi : m.mode ≠ .implicit) (hv : m.mode ≠ .immediate) (s : State) :
    ∃ v, (resolve m s).read s = .ok v ∧ ∀ w t, ∃ u, (resolve m s).write w t = .ok u := by
  cases m with
  | implicit => exact absurd rfl hi
  | immediate w => exact absurd rfl hv
  | _ => exact ⟨_, rfl, fun _ _ => ⟨_, rfl⟩⟩

theorem Handle.target_eq_error {h : Handle} (hm : ∀ addr, h ≠ .memory addr) : h.target = .error .targetOfNonMemory := by
  cases h with
  | memory addr => exact absurd rfl (hm addr)
  | implicit | accumulator | immediate v => rfl

/-- A jump to an operand without an address (R91, decision D10). -/
theorem withTarget_fault {m : Operand} {s : State} (h : ∀ addr, resolve m s ≠ .memory addr) (k : Addr → State) :
    withTarget m s k = .fault .targetOfNonMemory := by
  rw [withTarget, Handle.target_eq_error h]

/-! ### Which opcode bytes fetch a null entry and BRK -/

theorem decodeBytes_isNull_iff {op b1 b2 : Byte} :
    (∃ op', decodeBytes op b1 b2 = .null op') ↔ decodeEntry op = none := by
  refine ⟨fun ⟨op', hnull⟩ => ?_, fun h => ⟨op, decodeBytes_of_none h b1 b2⟩⟩
  cases hentry : decodeEntry op with
  | none => rfl
  | some entry => simpa [hnull, Instr.parts] using decodeBytes_parts hentry b1 b2

/-- BRK has the one opcode 0x00 (R221). -/
theorem decodeBytes_eq_brk_iff {op b1 b2 : Byte} : decodeBytes op b1 b2 = .brk ↔ op = 0x00 := by
  constructor
  · intro hbrk
    cases hentry : decodeEntry op with
    | none => rw [decodeBytes_of_none hentry] at hbrk; cases hbrk
    | some entry =>
      obtain ⟨o, m⟩ := entry
      have hparts := decodeBytes_parts hentry b1 b2
      rw [hbrk, Instr.parts, Sum.inr.injEq, Prod.mk.injEq] at hparts
      obtain ⟨rfl, hoperand⟩ := hparts
      obtain rfl : .implicit = m := (congrArg Operand.mode hoperand).trans (Mode.mode_withBytes m b1 b2)
      exact (Option.some.inj (opcodeOf_of_decodeEntry hentry)).symm
  · rintro rfl
    rfl

end Sys2Proof.Machine

namespace Sys2Proof.Claims

open Sys2Proof.Machine

/-! ### Every well-formed instruction completes, a null entry apart -/

/-- Each form completes where the operand can be used as the form uses it, and the modes of a well-formed
instruction can be (R89 to R91). -/
theorem exec_completes {i : Instr} (hwf : i.wf = true) (hnull : ∀ op, i ≠ .null op) (s : State) :
    ∃ t, Completes i s t := by
  cases i with
  | lda m | ldx m | ldy m | adc m | sbc m | cmp m | cpx m | cpy m | and m | ora m | eor m | bit m =>
    obtain ⟨v, hv⟩ := exists_read_resolve (Instr.mode_ne_of_wf rfl rfl hwf) s
    exact ⟨_, completes_of_withValue rfl hv⟩
  | sta m | stx m | sty m =>
    obtain ⟨addr, haddr⟩ := exists_resolve_eq_memory_of_wf rfl (by decide) hwf s
    exact ⟨_, completes_of_storeValue rfl haddr⟩
  | asl m | lsr m | rol m | ror m =>
    obtain ⟨v, hv, hwrite⟩ :=
      exists_read_write_resolve (Instr.mode_ne_of_wf rfl rfl hwf) (Instr.mode_ne_of_wf rfl rfl hwf) s
    obtain ⟨u, hu⟩ := hwrite _ _
    exact ⟨_, shiftOperand_next.2 ⟨v, u, hv, hu, rfl⟩, rfl⟩
  | inc m | dec m =>
    obtain ⟨v, hv, hwrite⟩ :=
      exists_read_write_resolve (Instr.mode_ne_of_wf rfl rfl hwf) (Instr.mode_ne_of_wf rfl rfl hwf) s
    obtain ⟨u, hu⟩ := hwrite _ _
    exact ⟨_, adjustOperand_next.2 ⟨v, u, hv, hu, rfl⟩, rfl⟩
  | bcc m | bcs m | bne m | beq m | bpl m | bmi m | bvc m | bvs m =>
    obtain ⟨off, rfl⟩ := Instr.exists_relative_of_wf rfl rfl hwf
    exact ⟨_, completes_of_complete (branchIf_relative _ off s)⟩
  | jmp m | jsr m =>
    obtain ⟨addr, haddr⟩ := exists_resolve_eq_memory_of_wf rfl (by decide) hwf s
    exact ⟨_, withTarget_next.2 ⟨addr, haddr, rfl⟩, rfl⟩
  | null op => exact absurd rfl (hnull op)
  | _ => exact ⟨_, completes_of_complete rfl⟩

/-- An instruction under any parameters answers a next state, whose outcome bit is false at a null entry and at
BRK under BRK_HALTS (R230, R231). -/
theorem execWith_answers (c : Config) {i : Instr} (hwf : i.wf = true) (s : State) :
    ∃ t, execWith c i s = .next t ∧ (t.ok = false ↔ (∃ op, i = .null op) ∨ i = .brk ∧ c.brkHalts = true) := by
  by_cases hnull : ∃ op, i = .null op
  · obtain ⟨op, rfl⟩ := hnull
    exact ⟨_, rfl, iff_of_true rfl (.inl ⟨op, rfl⟩)⟩
  by_cases hbrk : i = .brk
  · subst hbrk
    exact ⟨_, (execWith_brk c s).trans (execBrkWith_eq c s), by simp⟩
  · obtain ⟨t, hnext, hok⟩ := exec_completes hwf (not_exists.1 hnull) s
    exact ⟨t, (execWith_of_ne hbrk c s).trans hnext, iff_of_false (by simp [hok]) (by simp [hnull, hbrk])⟩

/-! ### The branches as one form, and the code of a step -/

/-- Each of the eight branches is `branchIf`, and tests that its flag has its value (R190 to R198). -/
theorem exists_branchIf_of_branch {mk : Operand → Instr} {f : Flag} {on : Bool}
    (h : (mk, f, on) ∈ [(Instr.bcc, Flag.c, false), (Instr.bcs, Flag.c, true), (Instr.bne, Flag.z, false),
      (Instr.beq, Flag.z, true), (Instr.bpl, Flag.n, false), (Instr.bmi, Flag.n, true),
      (Instr.bvc, Flag.v, false), (Instr.bvs, Flag.v, true)]) (m : Operand) (s : State) :
    ∃ cond, exec (mk m) s = branchIf cond m s ∧ (cond = true ↔ s.flag f = on) := by
  simp only [List.mem_cons, Prod.mk.injEq, List.not_mem_nil, or_false] at h
  rcases h with ⟨rfl, rfl, rfl⟩ | ⟨rfl, rfl, rfl⟩ | ⟨rfl, rfl, rfl⟩ | ⟨rfl, rfl, rfl⟩ | ⟨rfl, rfl, rfl⟩ |
    ⟨rfl, rfl, rfl⟩ | ⟨rfl, rfl, rfl⟩ | ⟨rfl, rfl, rfl⟩ <;> exact ⟨_, rfl, by simp only [Bool.not_eq_true']⟩

theorem stepCode_of_next {c : Config} {s t : State} (h : stepWith c s = .next t) :
    stepCode c s = if t.ok then .ok else if s.fetchInstr = .brk then .haltBrk else .haltUndoc := by
  rw [stepCode, h]; rfl

/-! ### The statements of 60_exceptions.md -/

/-- Settles O20: the fetch decodes a well-formed instruction in every state, so every step answers. -/
theorem everyRunIsSafe : Obligations.EveryRunIsSafe := by
  intro c s t _
  obtain ⟨u, hu, -⟩ := execWith_answers c t.fetchInstr_wf (t.advancePast t.fetchInstr)
  exact ⟨u, hu⟩

/-- Settles O21: `execWith_answers` at the spec's values, where BRK does not halt. -/
theorem everyWellFormedInstructionCompletes : Obligations.EveryWellFormedInstructionCompletes := by
  intro i s hwf
  obtain ⟨t, hnext, hok⟩ := execWith_answers Config.specValues hwf s
  have hruns : Config.specValues.brkHalts ≠ true := by decide
  exact ⟨t, (execWith_specValues i s).symm.trans hnext, by simpa [hruns] using hok⟩

/-- Settles O22: the forms that read do so first; stores and read-modify-writes fault where they write, and jumps
and taken branches at their target. Whatever is well-formed answers (O21). -/
theorem misusedHandlesRaiseInternalError : Obligations.MisusedHandlesRaiseInternalError := by
  refine ⟨?_, ?_, ?_, ?_, ?_, ?_⟩
  · intro mk hmk s
    simp only [List.mem_cons, List.not_mem_nil, or_false] at hmk
    rcases hmk with rfl | rfl | rfl | rfl | rfl | rfl | rfl | rfl | rfl | rfl | rfl | rfl | rfl | rfl | rfl | rfl |
      rfl | rfl <;> rfl
  · intro mk hmk s v
    simp only [List.mem_cons, List.not_mem_nil, or_false] at hmk
    rcases hmk with rfl | rfl | rfl <;> exact ⟨rfl, rfl⟩
  · intro mk hmk s v
    simp only [List.mem_cons, List.not_mem_nil, or_false] at hmk
    rcases hmk with rfl | rfl | rfl | rfl | rfl | rfl <;> rfl
  · intro mk hmk m s hm
    simp only [List.mem_cons, List.not_mem_nil, or_false] at hmk
    rcases hmk with rfl | rfl <;> exact withTarget_fault hm _
  · intro mk f on hmk m s hm hflag
    obtain ⟨cond, hexec, hcond⟩ := exists_branchIf_of_branch hmk m s
    rw [hexec, branchIf, if_pos (hcond.2 hflag), withTarget_fault hm]
  · intro i s f hfault
    by_contra hwf
    obtain ⟨t, hnext, -⟩ := everyWellFormedInstructionCompletes i s (Bool.eq_true_of_not_eq_false hwf)
    cases hnext.symm.trans hfault

/-- Settles O23: the outcome bit by `execWith_answers`; the fetched instruction is a null entry, or BRK, by the
opcode byte, and never both. -/
theorem stepReturnsFalseOnlyAtHalts : Obligations.StepReturnsFalseOnlyAtHalts := by
  intro c s
  obtain ⟨t, hnext, hok⟩ := execWith_answers c s.fetchInstr_wf (s.advancePast s.fetchInstr)
  have hbrk : s.fetchInstr = .brk ↔ s.memRead s.pc = 0x00 := decodeBytes_eq_brk_iff
  rw [State.fetchInstr, decodeBytes_isNull_iff, ← State.fetchInstr, hbrk] at hok
  have hcode := stepCode_of_next hnext
  simp only [hbrk] at hcode
  have hdisjoint : decodeEntry (s.memRead s.pc) = none → s.memRead s.pc ≠ 0x00 := by
    intro hnone hzero
    rw [hzero] at hnone
    cases hnone
  refine ⟨t, hnext, hok, ?_⟩
  cases hbit : t.ok with
  | true =>
    obtain ⟨hentry, hbreak⟩ := not_or.1 (mt hok.2 (by simp [hbit]))
    rw [hcode, hbit]
    exact ⟨iff_of_false nofun hentry, iff_of_false nofun hbreak, iff_of_true rfl rfl⟩
  | false =>
    rw [hcode, hbit, if_neg Bool.false_ne_true]
    rcases hok.1 hbit with hentry | ⟨hzero, hhalts⟩
    · rw [if_neg (hdisjoint hentry)]
      exact ⟨iff_of_true rfl hentry, iff_of_false nofun fun h => hdisjoint hentry h.1, iff_of_false nofun nofun⟩
    · rw [if_pos hzero]
      exact ⟨iff_of_false nofun fun h => hdisjoint h hzero, iff_of_true rfl ⟨hzero, hhalts⟩, iff_of_false nofun nofun⟩

/-- Settles O52: RTI (O45) with what BRK left in the three slots (O51). -/
theorem rtiReturnsFromBrk : Obligations.RtiReturnsFromBrk := by
  intro c s t w h
  obtain ⟨t', hbrk, -, -, hsp, hhigh, hlow, hstatus, hbrkframe, -⟩ := brkEntersTheTrap.1 c s
  obtain rfl : t' = t := by simpa using hbrk.symm.trans h
  obtain ⟨u, ⟨hrti, -⟩, husp, hu, hb, hpulled, hupc, hrtiframe⟩ := rtiRestoresStatusThenPc (t'.setPc w)
  obtain ⟨hreg, -, -⟩ := (hbrkframe.trans (.setPc t' w)).trans hrtiframe
  have hslots : t'.sp + 1 = s.sp - 2 ∧ t'.sp + 2 = s.sp - 1 ∧ t'.sp + 3 = s.sp := by
    rw [hsp]; refine ⟨?_, ?_, ?_⟩ <;> bv_omega
  obtain ⟨h1, h2, h3⟩ := hslots
  have hread : ∀ b, (t'.setPc w).memRead b = t'.memRead b := State.memRead_congr rfl
  have hflag : ∀ f, f ≠ .u → f ≠ .b → u.flag f = (s.flag f || decide (f = .b ∨ f = .i)) := fun f hfu hfb => by
    rw [hpulled f hfu hfb, hread, State.setPc_sp, h1, hstatus]
  refine ⟨u, hrti, ?_, fun r => ?_, ?_, hu, hb, fun f hfi hfu hfb => ?_⟩
  · apply BitVec.eq_of_toNat_eq
    rw [hupc, hread, hread, State.setPc_sp, h2, h3, hlow, hhigh, lowByte_toNat, highByte_toNat]
    omega
  · by_cases hr : r = .sp
    · subst hr; exact husp.trans h3
    · exact hreg r (by simp [hr])
  · rw [hflag .i (by decide) (by decide)]; simp
  · rw [hflag f hfu hfb]; simp [hfi, hfb]

end Sys2Proof.Claims

/-! PROOFS of the statements about loading a program and the end of a run (70_reset_and_hazards.md). -/

namespace Sys2Proof.Machine

/-! ### Bytes written one after another -/

namespace State

theorem writeBytes_frame (s : State) (a : Nat) (bytes : List Byte) :
    (s.writeBytes a bytes).a = s.a ∧ (s.writeBytes a bytes).x = s.x ∧ (s.writeBytes a bytes).y = s.y ∧
      (s.writeBytes a bytes).sp = s.sp ∧ (s.writeBytes a bytes).p = s.p := by
  induction bytes generalizing s a with
  | nil => exact ⟨rfl, rfl, rfl, rfl, rfl⟩
  | cons v rest ih => exact ih _ _

/-- The bytes stand at their addresses, and every other byte of memory is as it was (R253). -/
theorem writeBytes_read (s : State) (a : Nat) (bytes : List Byte) (b : Nat) :
    (s.writeBytes a bytes).mem.read b =
      if a ≤ b ∧ b < a + bytes.length then bytes.getD (b - a) 0 else s.mem.read b := by
  induction bytes generalizing s a with
  | nil => rw [if_neg (by simp)]; rfl
  | cons v rest ih =>
    rw [writeBytes, ih, setMem_mem, Memory.read_write, List.length_cons]
    by_cases hhead : a = b
    · subst hhead
      rw [if_neg (by omega), if_pos rfl, if_pos (by omega), Nat.sub_self, List.getD_cons_zero]
    by_cases htail : a + 1 ≤ b ∧ b < a + 1 + rest.length
    · have hsucc : b - a = (b - (a + 1)) + 1 := by omega
      rw [if_pos htail, if_pos (by omega), hsucc, List.getD_cons_succ]
    · rw [if_neg htail, if_neg hhead, if_neg (by omega)]

end State

theorem loadProgram_error {bytes : List Byte} {offset : Addr} (h : 65536 < offset.toNat + bytes.length) (s : State) :
    loadProgram bytes offset s = .error .loadError := if_pos h

theorem loadProgram_ok {bytes : List Byte} {offset : Addr} (h : offset.toNat + bytes.length ≤ 65536) (s : State) :
    loadProgram bytes offset s = .ok ((s.writeBytes offset.toNat bytes).setPc offset) := if_neg (Nat.not_lt.2 h)

end Sys2Proof.Machine

namespace Sys2Proof.Claims

open Sys2Proof.Machine

/-! ### The boundaries of a run and its endings -/

section Runs

variable {c : Config} {s t : State}

theorem hostStopsBefore_iff : hostStopsBefore c s = true ↔ c.hostStopAtBrk = true ∧ s.memRead s.pc = 0x00 := by
  rw [hostStopsBefore, Bool.and_eq_true, beq_iff_eq]

theorem afterSteps_succ (h : stepWith c s = .next t) (n : Nat) : afterSteps c (n + 1) s = afterSteps c n t := by
  rw [afterSteps, h]

/-- At the launch boundary only the host's stop ends a run (log entry 10). -/
theorem endsAt_zero_iff {u : State} : EndsAt c s 0 u ↔ u = s ∧ hostStopsBefore c s = true := by
  rw [hostStopsBefore_iff, EndsAt, afterSteps, Option.some.injEq]
  constructor
  · rintro ⟨rfl, ⟨hpos, -⟩ | hstops⟩
    · exact absurd hpos (Nat.lt_irrefl 0)
    · exact ⟨rfl, hstops⟩
  · rintro ⟨rfl, hstops⟩
    exact ⟨rfl, .inr hstops⟩

/-- A step that returned false ends the run at the boundary after it. -/
theorem endsAt_one_of_halt (h : stepWith c s = .next t) (hok : t.ok = false) : EndsAt c s 1 t :=
  ⟨afterSteps_succ h 0, .inl ⟨Nat.one_pos, hok⟩⟩

/-- After a step that returned true, the boundaries are those of the run from the next state. -/
theorem endsAt_succ_iff (h : stepWith c s = .next t) (hok : t.ok = true) {n : Nat} {u : State} :
    EndsAt c s (n + 1) u ↔ EndsAt c t n u := by
  rw [EndsAt, EndsAt, afterSteps_succ h]
  refine and_congr_right fun hu => or_congr_left (and_congr_left fun hfalse => ?_)
  refine iff_of_true n.succ_pos (Nat.pos_of_ne_zero ?_)
  rintro rfl
  obtain rfl := Option.some.inj hu
  exact Bool.false_ne_true (hfalse.symm.trans hok)

theorem EndsAt.unique {n : Nat} {u v : State} (hu : EndsAt c s n u) (hv : EndsAt c s n v) : u = v :=
  Option.some.inj (hu.1.symm.trans hv.1)

/-- The run from `s` ends with `n` steps at `t` by the convention: an ending applies there, and none before. -/
def FirstEnd (c : Config) (s : State) (n : Nat) (t : State) : Prop :=
  EndsAt c s n t ∧ ∀ m, m < n → ∀ u, ¬ EndsAt c s m u

theorem FirstEnd.unique {n m : Nat} {u v : State} (hu : FirstEnd c s n u) (hv : FirstEnd c s m v) : n = m ∧ u = v := by
  obtain ⟨hends, hfirst⟩ := hu
  obtain ⟨hends', hfirst'⟩ := hv
  obtain rfl : n = m := by
    rcases Nat.lt_trichotomy n m with hlt | heq | hlt
    · exact absurd hends (hfirst' n hlt u)
    · exact heq
    · exact absurd hends' (hfirst m hlt v)
  exact ⟨rfl, hends.unique hends'⟩

theorem firstEnd_zero (hstops : hostStopsBefore c s = true) : FirstEnd c s 0 s :=
  ⟨endsAt_zero_iff.2 ⟨rfl, hstops⟩, nofun⟩

theorem not_endsAt_of_lt_one (hstops : hostStopsBefore c s = false) : ∀ m, m < 1 → ∀ u, ¬ EndsAt c s m u := by
  intro m hm u hends
  obtain rfl : m = 0 := by omega
  obtain ⟨-, hstops'⟩ := endsAt_zero_iff.1 hends
  exact Bool.false_ne_true (hstops.symm.trans hstops')

/-- No ending at `s` itself, and the endings from the next state one step later. -/
theorem not_endsAt_of_lt_succ (hstops : hostStopsBefore c s = false) (h : stepWith c s = .next t) (hok : t.ok = true)
    {n : Nat} (hlater : ∀ m, m < n → ∀ u, ¬ EndsAt c t m u) : ∀ m, m < n + 1 → ∀ u, ¬ EndsAt c s m u := by
  intro m hm u hends
  cases m with
  | zero => exact not_endsAt_of_lt_one hstops 0 Nat.one_pos u hends
  | succ m => exact hlater m (Nat.lt_of_succ_lt_succ hm) u ((endsAt_succ_iff h hok).1 hends)

/-- The two ways a run under fuel can come out: at its first ending, or at the end of the fuel with no ending met. -/
theorem runToEnd_cases (c : Config) (fuel : Nat) (s : State) :
    (∃ n t, runToEnd c fuel s = .ended t n ∧ n ≤ fuel ∧ FirstEnd c s n t) ∨
    (∃ t, runToEnd c fuel s = .outOfFuel t ∧ afterSteps c fuel s = some t ∧
      ∀ m, m < fuel + 1 → ∀ u, ¬ EndsAt c s m u) := by
  induction fuel generalizing s with
  | zero =>
    cases hstops : hostStopsBefore c s with
    | true => exact .inl ⟨0, s, if_pos hstops, Nat.le_refl 0, firstEnd_zero hstops⟩
    | false => exact .inr ⟨s, by rw [runToEnd, hstops]; rfl, rfl, not_endsAt_of_lt_one hstops⟩
  | succ fuel ih =>
    cases hstops : hostStopsBefore c s with
    | true => exact .inl ⟨0, s, if_pos hstops, Nat.zero_le _, firstEnd_zero hstops⟩
    | false =>
      obtain ⟨t, hnext⟩ := everyRunIsSafe c s s (.refl s)
      have hrun : runToEnd c (fuel + 1) s = if t.ok then (runToEnd c fuel t).later else .ended t 1 := by
        rw [runToEnd, hstops, hnext]; rfl
      cases hok : t.ok with
      | false =>
        exact .inl ⟨1, t, by rw [hrun, hok]; rfl, Nat.le_add_left 1 fuel, endsAt_one_of_halt hnext hok,
          not_endsAt_of_lt_one hstops⟩
      | true =>
        rcases ih t with ⟨n, u, hended, hn, hends, hfirst⟩ | ⟨u, hout, hafter, hnone⟩
        · exact .inl ⟨n + 1, u, by rw [hrun, hok, hended]; rfl, Nat.succ_le_succ hn,
            (endsAt_succ_iff hnext hok).2 hends, not_endsAt_of_lt_succ hstops hnext hok hfirst⟩
        · exact .inr ⟨u, by rw [hrun, hok, hout]; rfl, (afterSteps_succ hnext fuel).trans hafter,
            not_endsAt_of_lt_succ hstops hnext hok hnone⟩

end Runs

/-! ### The statements of 70_reset_and_hazards.md -/

/-- Settles O58: the bytes by induction on their list (`State.writeBytes_read`). -/
theorem loadProgramCopiesTheBytes : Obligations.LoadProgramCopiesTheBytes := by
  intro c s bytes offset
  refine ⟨fun h => ?_, fun h => ?_, rfl⟩
  · rw [hostCall, loadProgram_error h]
  · obtain ⟨ha, hx, hy, hsp, hp⟩ := s.writeBytes_frame offset.toNat bytes
    refine ⟨(s.writeBytes offset.toNat bytes).setPc offset, by rw [hostCall, loadProgram_ok h], rfl, hp, ?_, ?_⟩
    · intro r
      cases r with
      | a => exact ha
      | x => exact hx
      | y => exact hy
      | sp => exact hsp
    · exact fun b => s.writeBytes_read offset.toNat bytes b.toNat

/-- Settles O59: of the two ways a run comes out (`runToEnd_cases`), each excludes what the other says. -/
theorem runsEndByTheConvention : Obligations.RunsEndByTheConvention := by
  intro c fuel s
  rcases runToEnd_cases c fuel s with ⟨n, t, hrun, hn, hend⟩ | ⟨t, hrun, hafter, hnone⟩ <;> rw [hrun]
  · refine ⟨fun m u => ⟨?_, fun ⟨_, hend'⟩ => ?_⟩, fun _ => ⟨n, t, rfl⟩, fun u => ⟨nofun, fun ⟨_, hnone⟩ => ?_⟩, nofun⟩
    · rintro ⟨⟩
      exact ⟨hn, hend⟩
    · obtain ⟨rfl, rfl⟩ := hend.unique hend'
      rfl
    · obtain ⟨hends, -⟩ := hend
      exact absurd hends (hnone n hn t)
  · have hnone : ∀ m, m ≤ fuel → ∀ u, ¬ EndsAt c s m u := fun m hm => hnone m (Nat.lt_succ_of_le hm)
    refine ⟨fun m u => ⟨nofun, fun ⟨hm, hends, _⟩ => ?_⟩, fun ⟨m, u, hm, hends⟩ => ?_, fun u => ⟨?_, fun ⟨hu, _⟩ => ?_⟩,
      nofun⟩
    · exact absurd hends (hnone m hm u)
    · exact absurd hends (hnone m hm u)
    · rintro ⟨⟩
      exact ⟨hafter, hnone⟩
    · rw [Option.some.inj (hafter.symm.trans hu)]

end Sys2Proof.Claims

/-! PROOF of the statement about the words that the source lists (95_test_vectors.md). -/

namespace Sys2Proof.Claims

open Sys2Proof.Machine

/-- Settles O15: the decoder, run on each of the ten words. -/
theorem listedWordsDecode : Obligations.ListedWordsDecode :=
  ⟨rfl, rfl, rfl, rfl, rfl, rfl, rfl, rfl, rfl, rfl⟩

end Sys2Proof.Claims
